-- ==== Sys2Proof/Word.lean ====
section
/-! DEFINITION. The widths of the machine's values (spec/00_scope.md R2, R5). All of them are unsigned. -/

namespace Sys2Proof

/-- A byte: a general register, a memory cell, a timer, the immediate `nn`. -/
abbrev Byte := BitVec 8

/-- A 16-bit value: an instruction word, pc, I, SP, a call-stack entry. -/
abbrev Word := BitVec 16

/-- A 4-bit field: the register indexes `x` and `y`, the row count `n`, a sub-opcode. -/
abbrev Nibble := BitVec 4

/-- The 12-bit address field `nnn`. -/
abbrev Addr12 := BitVec 12

end Sys2Proof
end

