-- ==== Sys2Proof/Config.lean ====
section
/-! DEFINITION. What is fixed for the machine (spec/00_scope.md R2) and the one free value, the random byte (R3). -/

namespace Sys2Proof

/-- The size of `MEM` in bytes (R2). -/
def Config.memBytes : Nat := 4096

/-- The load address, which is also the pc's value after reset (R2, spec/70_reset_and_hazards.md R202). -/
def Config.loadAddress : Nat := 0x200

/-- The random byte of the `k`-th executed Cxnn: a draw under no law (spec/42_alu.md R103, the spec's D11).
FREE VALUE, assumption log 3: it has no body, so nothing can be proved of any byte it gives. -/
opaque Config.rnd : Nat → Byte

end Sys2Proof
end

