-- ==== Sys2Proof/Syntax.lean ====
section
/-! DEFINITION. The 35 instructions, one constructor for each row of spec/30_encoding.md R55 (spec/opcode_table.json). -/

namespace Sys2Proof

/-- The instruction set. Operands have exactly the widths of their fields (R51, R53), so a value outside its field
cannot be written down. The names follow the spec's mnemonics (R60, assumption log 18). -/
inductive Instr where
  /-- 0000, R72 -/
  | nop
  /-- 00E0, R121 -/
  | cls
  /-- 00EE, R73 -/
  | ret
  /-- 1nnn, R74 -/
  | jp (nnn : Addr12)
  /-- 2nnn, R75 -/
  | call (nnn : Addr12)
  /-- 3xnn, R81 -/
  | seImm (x : Nibble) (nn : Byte)
  /-- 4xnn, R82 -/
  | sneImm (x : Nibble) (nn : Byte)
  /-- 5xy0, R83 -/
  | seReg (x y : Nibble)
  /-- 6xnn, R91 -/
  | ldImm (x : Nibble) (nn : Byte)
  /-- 7xnn, R92 -/
  | addImm (x : Nibble) (nn : Byte)
  /-- 8xy0, R93 -/
  | ldReg (x y : Nibble)
  /-- 8xy1, R94 -/
  | orReg (x y : Nibble)
  /-- 8xy2, R95 -/
  | andReg (x y : Nibble)
  /-- 8xy3, R96 -/
  | xorReg (x y : Nibble)
  /-- 8xy4, R97 -/
  | addReg (x y : Nibble)
  /-- 8xy5, R98 -/
  | subReg (x y : Nibble)
  /-- 8xy6, R99; `y` is decoded and not used (R59) -/
  | shr (x y : Nibble)
  /-- 8xy7, R100 -/
  | subnReg (x y : Nibble)
  /-- 8xyE, R101; `y` is decoded and not used (R59) -/
  | shl (x y : Nibble)
  /-- 9xy0, R84 -/
  | sneReg (x y : Nibble)
  /-- Annn, R110 -/
  | ldI (nnn : Addr12)
  /-- Bnnn, R76 -/
  | jpV0 (nnn : Addr12)
  /-- Cxnn, R103 -/
  | rnd (x : Nibble) (nn : Byte)
  /-- Dxyn, R122 -/
  | drw (x y n : Nibble)
  /-- Ex9E, R131 -/
  | skp (x : Nibble)
  /-- ExA1, R132 -/
  | sknp (x : Nibble)
  /-- Fx07, R140 -/
  | ldVxDt (x : Nibble)
  /-- Fx0A, R133 -/
  | ldVxK (x : Nibble)
  /-- Fx15, R141 -/
  | ldDtVx (x : Nibble)
  /-- Fx18, R142 -/
  | ldStVx (x : Nibble)
  /-- Fx1E, R111 -/
  | addI (x : Nibble)
  /-- Fx29, R112 -/
  | ldF (x : Nibble)
  /-- Fx33, R113 -/
  | ldB (x : Nibble)
  /-- Fx55, R114 -/
  | storeRegs (x : Nibble)
  /-- Fx65, R115 -/
  | loadRegs (x : Nibble)
  deriving DecidableEq, Repr

end Sys2Proof
end

