-- ==== Sys2Proof/WellFormed.lean ====
section
/-! DEFINITION. The checks on what reaches the machine: an operand fits its field (spec/30_encoding.md R53, R60), and the
host's inputs keep their contract (spec/47_host_operations.md R163). -/

namespace Sys2Proof

/-- A number fits a field of `width` bits (R60: an immediate "must fit its field"). -/
def fieldFits (value width : Nat) : Bool := decide (value < 2 ^ width)

/-- The operands of an instruction, each with the width of its field (R51, R52). -/
def Instr.operandFields : Instr → List (Nat × Nat)
  | .nop | .cls | .ret => []
  | .jp nnn | .call nnn | .ldI nnn | .jpV0 nnn => [(nnn.toNat, 12)]
  | .seImm x nn | .sneImm x nn | .ldImm x nn | .addImm x nn | .rnd x nn => [(x.toNat, 4), (nn.toNat, 8)]
  | .seReg x y | .sneReg x y | .ldReg x y | .orReg x y | .andReg x y | .xorReg x y | .addReg x y | .subReg x y
  | .shr x y | .subnReg x y | .shl x y => [(x.toNat, 4), (y.toNat, 4)]
  | .drw x y n => [(x.toNat, 4), (y.toNat, 4), (n.toNat, 4)]
  | .skp x | .sknp x | .ldVxDt x | .ldVxK x | .ldDtVx x | .ldStVx x | .addI x | .ldF x | .ldB x | .storeRegs x
  | .loadRegs x => [(x.toNat, 4)]

/-- Every operand fits its field. The operand types of `Instr` already ensure it (assumption log 18). -/
def Instr.wellFormed (i : Instr) : Bool := i.operandFields.all fun f => fieldFits f.1 f.2

/-- A program image of `len` bytes fits above the load address: "0x200 + len(bytes) <= 4096" (R155, R163). -/
def imageFits (len : Nat) : Bool := decide (Config.loadAddress + len ≤ Config.memBytes)

/-- The host's key index is "in [0,15]" (R154, R163). -/
def keyIndexFits (index : Nat) : Bool := decide (index ≤ 15)

end Sys2Proof
end

