-- ==== Sys2Proof/Decode.lean ====
section
/-! DEFINITION. The decoder (spec/30_encoding.md R50 to R59), the opcode map of R55 as data, and the encoder written
from the same table. Decoding depends on the word alone (R50). -/

namespace Sys2Proof

/-! ## Fields of the word (R51) -/

/-- f1, bits 15..12: the family selector. -/
def fieldF1 (w : Word) : Nibble := w.extractLsb' 12 4

/-- f2 = x, bits 11..8. -/
def fieldX (w : Word) : Nibble := w.extractLsb' 8 4

/-- f3 = y, bits 7..4. -/
def fieldY (w : Word) : Nibble := w.extractLsb' 4 4

/-- f4 = n, bits 3..0. -/
def fieldN (w : Word) : Nibble := w.extractLsb' 0 4

/-- nn, bits 7..0. -/
def fieldNN (w : Word) : Byte := w.extractLsb' 0 8

/-- nnn, bits 11..0. -/
def fieldNNN (w : Word) : Addr12 := w.extractLsb' 0 12

/-! ## The decoder (R54) -/

/-- Why bytes are no instruction, by name: one constructor for each row of R57, and too few bytes. -/
inductive DecodeError where
  /-- fewer than the two bytes of a word (R50) -/
  | truncated
  /-- 0nnn other than 0000, 00E0, 00EE -/
  | illegal0nnn
  /-- 5xyn with n != 0 -/
  | illegal5xyn
  /-- 8xyn with n in 8..D or F -/
  | illegal8xyn
  /-- 9xyn with n != 0 -/
  | illegal9xyn
  /-- Exnn with nn not 9E or A1 -/
  | illegalExnn
  /-- Fxnn with no sub-opcode nn of R55 -/
  | illegalFxnn
  deriving DecidableEq, Repr

/-- Family 0x0: three single words. -/
def decodeFamily0 (w : Word) : Except DecodeError Instr :=
  if w = 0x0000#16 then .ok .nop
  else if w = 0x00E0#16 then .ok .cls
  else if w = 0x00EE#16 then .ok .ret
  else .error .illegal0nnn

/-- Family 0x8: the sub-opcode is n. -/
def decodeFamily8 (x y n : Nibble) : Except DecodeError Instr :=
  if n = 0x0#4 then .ok (.ldReg x y)
  else if n = 0x1#4 then .ok (.orReg x y)
  else if n = 0x2#4 then .ok (.andReg x y)
  else if n = 0x3#4 then .ok (.xorReg x y)
  else if n = 0x4#4 then .ok (.addReg x y)
  else if n = 0x5#4 then .ok (.subReg x y)
  else if n = 0x6#4 then .ok (.shr x y)
  else if n = 0x7#4 then .ok (.subnReg x y)
  else if n = 0xE#4 then .ok (.shl x y)
  else .error .illegal8xyn

/-- Family 0xE: the sub-opcode is nn. -/
def decodeFamilyE (x : Nibble) (nn : Byte) : Except DecodeError Instr :=
  if nn = 0x9E#8 then .ok (.skp x)
  else if nn = 0xA1#8 then .ok (.sknp x)
  else .error .illegalExnn

/-- Family 0xF: the sub-opcode is nn. -/
def decodeFamilyF (x : Nibble) (nn : Byte) : Except DecodeError Instr :=
  if nn = 0x07#8 then .ok (.ldVxDt x)
  else if nn = 0x0A#8 then .ok (.ldVxK x)
  else if nn = 0x15#8 then .ok (.ldDtVx x)
  else if nn = 0x18#8 then .ok (.ldStVx x)
  else if nn = 0x1E#8 then .ok (.addI x)
  else if nn = 0x29#8 then .ok (.ldF x)
  else if nn = 0x33#8 then .ok (.ldB x)
  else if nn = 0x55#8 then .ok (.storeRegs x)
  else if nn = 0x65#8 then .ok (.loadRegs x)
  else .error .illegalFxnn

/-- The decoder, total on the 65536 words (R54). -/
def decodeWord (w : Word) : Except DecodeError Instr :=
  match fieldF1 w with
  | 0x0#4 => decodeFamily0 w
  | 0x1#4 => .ok (.jp (fieldNNN w))
  | 0x2#4 => .ok (.call (fieldNNN w))
  | 0x3#4 => .ok (.seImm (fieldX w) (fieldNN w))
  | 0x4#4 => .ok (.sneImm (fieldX w) (fieldNN w))
  | 0x5#4 => if fieldN w = 0#4 then .ok (.seReg (fieldX w) (fieldY w)) else .error .illegal5xyn
  | 0x6#4 => .ok (.ldImm (fieldX w) (fieldNN w))
  | 0x7#4 => .ok (.addImm (fieldX w) (fieldNN w))
  | 0x8#4 => decodeFamily8 (fieldX w) (fieldY w) (fieldN w)
  | 0x9#4 => if fieldN w = 0#4 then .ok (.sneReg (fieldX w) (fieldY w)) else .error .illegal9xyn
  | 0xA#4 => .ok (.ldI (fieldNNN w))
  | 0xB#4 => .ok (.jpV0 (fieldNNN w))
  | 0xC#4 => .ok (.rnd (fieldX w) (fieldNN w))
  | 0xD#4 => .ok (.drw (fieldX w) (fieldY w) (fieldN w))
  | 0xE#4 => decodeFamilyE (fieldX w) (fieldNN w)
  -- 0xF, the one value left
  | _ => decodeFamilyF (fieldX w) (fieldNN w)

/-- The byte at the lower address is the high byte (spec/20_memory.md R34). -/
def joinBytes (high low : Byte) : Word := high ++ low

/-- The two bytes of a word in the order of their addresses (R34, R50). -/
def wordBytes (w : Word) : List Byte := [w.extractLsb' 8 8, w.extractLsb' 0 8]

/-- Decoding a stream of bytes: the instruction and the bytes after it. -/
def decode : List Byte → Except DecodeError (Instr × List Byte)
  | high :: low :: rest =>
    match decodeWord (joinBytes high low) with
    | .ok i => .ok (i, rest)
    | .error e => .error e
  | _ => .error .truncated

/-! ## The encoder (R52, R55) -/

/-- Format A: opcode, nnn. -/
def formA (op : Nibble) (nnn : Addr12) : Word := op ++ nnn

/-- Formats XI and X: opcode, x, and the immediate or the sub-opcode nn. -/
def formXI (op x : Nibble) (nn : Byte) : Word := op ++ x ++ nn

/-- Formats XY and XYN: opcode, x, y, and the sub-opcode or the row count. -/
def formXY (op x y n : Nibble) : Word := op ++ x ++ y ++ n

/-- The word of an instruction. -/
def encode : Instr → Word
  | .nop => 0x0000
  | .cls => 0x00E0
  | .ret => 0x00EE
  | .jp nnn => formA 0x1 nnn
  | .call nnn => formA 0x2 nnn
  | .seImm x nn => formXI 0x3 x nn
  | .sneImm x nn => formXI 0x4 x nn
  | .seReg x y => formXY 0x5 x y 0x0
  | .ldImm x nn => formXI 0x6 x nn
  | .addImm x nn => formXI 0x7 x nn
  | .ldReg x y => formXY 0x8 x y 0x0
  | .orReg x y => formXY 0x8 x y 0x1
  | .andReg x y => formXY 0x8 x y 0x2
  | .xorReg x y => formXY 0x8 x y 0x3
  | .addReg x y => formXY 0x8 x y 0x4
  | .subReg x y => formXY 0x8 x y 0x5
  | .shr x y => formXY 0x8 x y 0x6
  | .subnReg x y => formXY 0x8 x y 0x7
  | .shl x y => formXY 0x8 x y 0xE
  | .sneReg x y => formXY 0x9 x y 0x0
  | .ldI nnn => formA 0xA nnn
  | .jpV0 nnn => formA 0xB nnn
  | .rnd x nn => formXI 0xC x nn
  | .drw x y n => formXY 0xD x y n
  | .skp x => formXI 0xE x 0x9E
  | .sknp x => formXI 0xE x 0xA1
  | .ldVxDt x => formXI 0xF x 0x07
  | .ldVxK x => formXI 0xF x 0x0A
  | .ldDtVx x => formXI 0xF x 0x15
  | .ldStVx x => formXI 0xF x 0x18
  | .addI x => formXI 0xF x 0x1E
  | .ldF x => formXI 0xF x 0x29
  | .ldB x => formXI 0xF x 0x33
  | .storeRegs x => formXI 0xF x 0x55
  | .loadRegs x => formXI 0xF x 0x65

/-! ## The opcode map (R55) -/

/-- One row of R55: a word `w` selects it when `w &&& mask = code`. -/
structure OpcodeRow where
  pattern : String
  code : Word
  mask : Word
  deriving DecidableEq, Repr

/-- Rows 1 to 10. -/
def opcodeRows1to10 : List OpcodeRow :=
  [⟨"0000", 0x0000, 0xFFFF⟩, ⟨"00E0", 0x00E0, 0xFFFF⟩, ⟨"00EE", 0x00EE, 0xFFFF⟩, ⟨"1nnn", 0x1000, 0xF000⟩,
   ⟨"2nnn", 0x2000, 0xF000⟩, ⟨"3xnn", 0x3000, 0xF000⟩, ⟨"4xnn", 0x4000, 0xF000⟩, ⟨"5xy0", 0x5000, 0xF00F⟩,
   ⟨"6xnn", 0x6000, 0xF000⟩, ⟨"7xnn", 0x7000, 0xF000⟩]

/-- Rows 11 to 20. -/
def opcodeRows11to20 : List OpcodeRow :=
  [⟨"8xy0", 0x8000, 0xF00F⟩, ⟨"8xy1", 0x8001, 0xF00F⟩, ⟨"8xy2", 0x8002, 0xF00F⟩, ⟨"8xy3", 0x8003, 0xF00F⟩,
   ⟨"8xy4", 0x8004, 0xF00F⟩, ⟨"8xy5", 0x8005, 0xF00F⟩, ⟨"8xy6", 0x8006, 0xF00F⟩, ⟨"8xy7", 0x8007, 0xF00F⟩,
   ⟨"8xyE", 0x800E, 0xF00F⟩, ⟨"9xy0", 0x9000, 0xF00F⟩]

/-- Rows 21 to 35. -/
def opcodeRows21to35 : List OpcodeRow :=
  [⟨"Annn", 0xA000, 0xF000⟩, ⟨"Bnnn", 0xB000, 0xF000⟩, ⟨"Cxnn", 0xC000, 0xF000⟩, ⟨"Dxyn", 0xD000, 0xF000⟩,
   ⟨"Ex9E", 0xE09E, 0xF0FF⟩, ⟨"ExA1", 0xE0A1, 0xF0FF⟩, ⟨"Fx07", 0xF007, 0xF0FF⟩, ⟨"Fx0A", 0xF00A, 0xF0FF⟩,
   ⟨"Fx15", 0xF015, 0xF0FF⟩, ⟨"Fx18", 0xF018, 0xF0FF⟩, ⟨"Fx1E", 0xF01E, 0xF0FF⟩, ⟨"Fx29", 0xF029, 0xF0FF⟩,
   ⟨"Fx33", 0xF033, 0xF0FF⟩, ⟨"Fx55", 0xF055, 0xF0FF⟩, ⟨"Fx65", 0xF065, 0xF0FF⟩]

/-- The complete opcode map, in the order of R55. -/
def opcodeMap : List OpcodeRow := opcodeRows1to10 ++ opcodeRows11to20 ++ opcodeRows21to35

/-- The place of an instruction's row in `opcodeMap`, counted from 0 (R55 counts from 1). -/
def Instr.rowNumber : Instr → Nat
  | .nop => 0 | .cls => 1 | .ret => 2 | .jp _ => 3 | .call _ => 4 | .seImm _ _ => 5 | .sneImm _ _ => 6
  | .seReg _ _ => 7 | .ldImm _ _ => 8 | .addImm _ _ => 9 | .ldReg _ _ => 10 | .orReg _ _ => 11 | .andReg _ _ => 12
  | .xorReg _ _ => 13 | .addReg _ _ => 14 | .subReg _ _ => 15 | .shr _ _ => 16 | .subnReg _ _ => 17 | .shl _ _ => 18
  | .sneReg _ _ => 19 | .ldI _ => 20 | .jpV0 _ => 21 | .rnd _ _ => 22 | .drw _ _ _ => 23 | .skp _ => 24 | .sknp _ => 25
  | .ldVxDt _ => 26 | .ldVxK _ => 27 | .ldDtVx _ => 28 | .ldStVx _ => 29 | .addI _ => 30 | .ldF _ => 31 | .ldB _ => 32
  | .storeRegs _ => 33 | .loadRegs _ => 34

/-! ## Words as spec/opcode_table.json numbers their bits -/

/-- The instruction word whose low `nbits` bits are those of `w`, the bits above zero. The word has 16 bits (R50),
and bit 0 is its least significant bit. -/
def tableWord (nbits w : Nat) : Word := BitVec.ofNat 16 (w % 2 ^ nbits)

/-- What the decoder reads from that word laid out in memory: high byte first (R34). -/
def decodeTableWord (nbits w : Nat) : Option Instr :=
  match decode (wordBytes (tableWord nbits w)) with
  | .ok (i, _) => some i
  | .error _ => none

end Sys2Proof
end

