-- ==== Sys2Proof/Machine/State.lean ====
section
/-! DEFINITION. The machine's state (spec/10_state.md), the reasons a step can stop, and the state after reset (R25). -/

namespace Sys2Proof.Machine

/-- The six fatal causes (spec/60_exceptions.md R173), the machine's only exceptions. A fatal ends the tick with the
fault outcome in place of a next state (R171). All are SAFE: nothing is claimed after one (R172, assumption log 4). -/
inductive Fault where
  /-- Code 1. Raised by 2nnn when SP >= 16 (R174). Safe: the spec's own fatal. -/
  | stackOverflow
  /-- Code 2. Raised by 00EE when SP = 0 (R175). Safe: the spec's own fatal. -/
  | stackUnderflow
  /-- Code 3. Raised by a tick whose word matches no row of the opcode map (R176). Safe: the spec's own fatal. -/
  | illegalInstruction
  /-- Code 4. Raised by fetch when pc > 4094 (R177). Safe: the spec's own fatal. -/
  | fetchOutOfBounds
  /-- Code 5. Raised by Dxyn, Fx33, Fx55, Fx65 on an access above 4095 (R178, the spec's D5). Safe, assumption log 6. -/
  | memoryOutOfBounds
  /-- Code 6. Raised by Ex9E, ExA1 when Vx > 15 (R179, the spec's D6). Safe, assumption log 7. -/
  | keyIndexOutOfRange
  deriving DecidableEq, Repr

/-- What has no transition at all. -/
inductive Refusal where
  /-- An instruction without a meaning, by its mnemonic. Raised by no arm of `exec`. Safe. -/
  | notModelled (mnemonic : String)
  /-- TICK, ADVANCE_TIMERS, SET_KEY, LOAD_PROGRAM on a halted machine "have no transition" (spec/47_host_operations.md
  R162, the spec's D14). Raised by `step` and the host operations. Safe, assumption log 5. -/
  | machineHalted
  /-- 00EE in a state with SP > 16, which is no state of the machine (spec/10_state.md R16). Raised by `pop`; no run
  reaches it. Safe, assumption log 12. -/
  | stackPointerOutOfRange
  /-- LOAD_PROGRAM of more than 3584 bytes is "not an input of the machine" (R163). Raised by the host operation.
  Safe, assumption log 15. -/
  | imageTooLarge
  /-- SET_KEY with an index above 15 is "not an input of the machine" (R163). Raised by the host operation.
  Safe, assumption log 15. -/
  | keyIndexNotAKey
  deriving DecidableEq, Repr

/-- The outcome of a step or of a part of one. -/
abbrev Res (α : Type) := Host.Outcome α Fault Refusal

/-- `MEM` (R19): (address, byte) pairs, addresses strictly rising, none equal to what an unlisted address reads as,
which is its reset contents (`Memory.initial` in Machine/Ops.lean, assumption log 2). -/
abbrev Memory := List Host.Cell

/-- `FB` (R22): 32 rows of 64 pixels, `true` = lit. -/
abbrev Framebuffer := Vector (Vector Bool 64) 32

/-- All of the machine's state (R10), and the model's own count of random draws. -/
structure State where
  /-- program counter (R13); during execution it is already past the instruction -/
  pc : Word
  /-- memory (R19) -/
  mem : Memory
  /-- general registers V0 to VF (R11); VF is the flag (R12) -/
  v : Vector Byte 16
  /-- index register I (R15) -/
  i : Word
  /-- stack pointer: the number of valid entries of the call stack, 0 to 16 (R16) -/
  sp : Word
  /-- call stack (R17) -/
  stack : Vector Word 16
  /-- delay timer (R18) -/
  dt : Byte
  /-- sound timer (R18) -/
  st : Byte
  /-- key state (R21) -/
  key : Vector Bool 16
  /-- framebuffer (R22) -/
  fb : Framebuffer
  /-- HALTED (R23) -/
  halted : Bool
  /-- CAUSE, a code 0 to 6 (R23, spec/60_exceptions.md R173) -/
  cause : BitVec 3
  /-- MODEL'S OWN: how many random bytes were drawn, which numbers the next one (assumption log 3) -/
  draws : Nat
  deriving DecidableEq, Repr

/-- The state after initialise or reset (R25). Memory lists nothing: every byte reads as its reset contents. -/
def State.reset : State where
  pc := 0x200
  mem := []
  v := Vector.replicate 16 0
  i := 0
  sp := 0
  stack := Vector.replicate 16 0
  dt := 0
  st := 0
  key := Vector.replicate 16 false
  fb := Vector.replicate 32 (Vector.replicate 64 false)
  halted := false
  cause := 0
  draws := 0

end Sys2Proof.Machine
end

