-- ==== Sys2Proof/Machine/Ops.lean ====
section
/-! DEFINITION. The named operations over registers, memory, the call stack and pc, fetching, taking a fatal (the
machine's only exception), and the one tick that runs an instruction. -/

namespace Sys2Proof.Machine

/-! ## Outcomes -/

/-- Runs `k` on the value of a next state; a fault or a refusal ends the tick where it occurs (R171). -/
def andThen {α β : Type} : Res α → (α → Res β) → Res β
  | .next a, k => k a
  | .fault f, _ => .fault f
  | .refused r, _ => .refused r

/-! ## Taking an exception (spec/60_exceptions.md R170 to R173, R182, R183) -/

/-- `raise Fatal(cause)`: the tick ends in the fault, with no next state (R171). -/
def raise {α : Type} (f : Fault) : Res α := .fault f

/-- The codes of R173. -/
def Fault.code : Fault → BitVec 3
  | .stackOverflow => 1
  | .stackUnderflow => 2
  | .illegalInstruction => 3
  | .fetchOutOfBounds => 4
  | .memoryOutOfBounds => 5
  | .keyIndexOutOfRange => 6

/-- The halted state after a fatal (R172): HALTED and CAUSE are set, and "All other state is unspecified": it is that
of `rest`, an arbitrary state nothing constrains (assumption log 4). -/
def haltWith (rest : State) (f : Fault) : State := { rest with halted := true, cause := f.code }

/-! ## Registers (R11) -/

/-- `V[x]`. -/
def State.reg (s : State) (x : Nibble) : Byte := s.v[x.toNat]'x.isLt

/-- `V[x] <- b`. -/
def State.setReg (s : State) (x : Nibble) (b : Byte) : State := { s with v := s.v.set x.toNat b x.isLt }

/-! ## Memory (spec/20_memory.md R30 to R40) -/

/-- What an address nothing has written reads as: its reset contents, the font table below 80 and zero above (R25). -/
def Memory.initial (a : Nat) : Byte := (fontTable.toList[a]?).getD 0

/-- The byte at an address. -/
def Memory.readByte : Memory → Nat → Byte
  | [], a => Memory.initial a
  | (k, b) :: rest, a => if k = a then b else Memory.readByte rest a

/-- One byte stored, in the canonical form: a byte equal to the reset contents is not listed. -/
def Memory.writeByte : Memory → Nat → Byte → Memory
  | [], a, b => if b = Memory.initial a then [] else [(a, b)]
  | (k, c) :: rest, a, b =>
    if a < k then (if b = Memory.initial a then (k, c) :: rest else (a, b) :: (k, c) :: rest)
    else if a = k then (if b = Memory.initial a then rest else (a, b) :: rest)
    else (k, c) :: Memory.writeByte rest a b

/-- Bytes stored from an address up. -/
def Memory.writeBytes : List Byte → Nat → Memory → Memory
  | [], _, m => m
  | b :: bs, a, m => Memory.writeBytes bs (a + 1) (m.writeByte a b)

/-- The canonical form: addresses strictly rise and lie in the 4096 bytes, and no entry is what the address would read
as unlisted. -/
abbrev Memory.wf (m : Memory) : Prop :=
  m.Pairwise (fun c d => c.1 < d.1) ∧ ∀ c ∈ m, c.1 < Config.memBytes ∧ c.2 ≠ Memory.initial c.1

/-- `MemRead(addr, 1)` (R33, R39). -/
def memRead (s : State) (a : Nat) : Res Byte :=
  if a < Config.memBytes then .next (s.mem.readByte a) else raise .memoryOutOfBounds

/-- `MemWrite(addr, 1, v)` (R35, R39). There is no protection (R38). -/
def memWrite (s : State) (a : Nat) (b : Byte) : Res State :=
  if a < Config.memBytes then .next { s with mem := s.mem.writeByte a b } else raise .memoryOutOfBounds

/-- `n` bytes read from `a` up, in increasing order (R40). -/
def loadBytes (s : State) : Nat → Nat → Res (List Byte)
  | 0, _ => .next []
  | n + 1, a => andThen (memRead s a) fun b => andThen (loadBytes s n (a + 1)) fun bs => .next (b :: bs)

/-- The bytes stored from `a` up, in increasing order (R40). -/
def storeBytes : List Byte → Nat → State → Res State
  | [], _, s => .next s
  | b :: bs, a, s => andThen (memWrite s a b) fun t => storeBytes bs (a + 1) t

/-! ## The call stack (spec/40_control_flow.md R70, R71) -/

/-- `push(v)`. -/
def push (w : Word) (s : State) : Res State :=
  if h : s.sp.toNat < 16 then .next { s with stack := s.stack.set s.sp.toNat w h, sp := s.sp + 1 }
  else raise .stackOverflow

/-- `pop()`: the value and the state. The entry read stays in place. -/
def pop (s : State) : Res (Word × State) :=
  if s.sp = 0 then raise .stackUnderflow
  else if h : (s.sp - 1).toNat < 16 then .next (s.stack[(s.sp - 1).toNat]'h, { s with sp := s.sp - 1 })
  else .refused .stackPointerOutOfRange

/-! ## The program counter (R13, R36, R80) -/

/-- `fetch()`: the word at pc, and the state with pc moved past it (R36). Any address 0 to 4094 will do, odd ones
included (R37). -/
def fetch (s : State) : Res (Word × State) :=
  if s.pc.toNat ≤ 4094 then
    .next (joinBytes (s.mem.readByte s.pc.toNat) (s.mem.readByte (s.pc.toNat + 1)), { s with pc := s.pc + 2 })
  else raise .fetchOutOfBounds

/-- A skip: pc moves by 2 more when the condition holds (spec/41_skips.md R80). -/
def skipIf (c : Bool) (s : State) : State := if c then { s with pc := s.pc + 2 } else s

/-! ## The tick (spec/47_host_operations.md R152) -/

/-- TICK with `run` as its execute half: "one fetch followed by one execute". A halted machine has no transition (R162). -/
def tickBody (run : Instr → State → Res State) (s : State) : Res State :=
  if s.halted then .refused .machineHalted
  else andThen (fetch s) fun f =>
    match decodeWord f.1 with
    | .ok i => run i f.2
    | .error _ => raise .illegalInstruction

/-- The instruction word of `decodeTableWord` put where the next fetch reads it (assumption log 19). Where no fetch
could read at pc, pc is the load address, and a halted machine is not halted. -/
def placeWord (nbits w : Nat) (s : State) : State :=
  let pc : Word := if s.pc.toNat ≤ 4094 then s.pc else BitVec.ofNat 16 Config.loadAddress
  { s with
    pc := pc
    mem := Memory.writeBytes (wordBytes (tableWord nbits w)) pc.toNat s.mem
    halted := false
    cause := if s.halted then 0 else s.cause }

end Sys2Proof.Machine
end

