-- ==== Sys2Proof/Machine/Flags.lean ====
section
/-! DEFINITION. The flag computations and the order of the two writes of a flag-writing instruction
(spec/42_alu.md R90, R102; spec/10_state.md R12). -/

namespace Sys2Proof.Machine

/-- VF receives the whole byte 0x00 or 0x01 (R12). -/
def flagByte (f : Bool) : Byte := if f then 1 else 0

/-- Carry of an addition: the unwrapped sum exceeds 255 (R97). -/
def carryOf (a b : Byte) : Bool := decide (a.toNat + b.toNat > 255)

/-- Not-borrow of the subtraction `a - b`: false exactly when `a < b` (R98, R100, R102). -/
def notBorrowOf (a b : Byte) : Bool := !decide (a.toNat < b.toNat)

/-- The bit a right shift drops (R99). -/
def lowBitOf (a : Byte) : Bool := a.getLsbD 0

/-- The bit a left shift drops (R101). -/
def highBitOf (a : Byte) : Bool := a.getLsbD 7

/-- The result goes to Vx and then the flag to VF, the flag last (R90, the spec's D8, assumption log 8). -/
def writeWithFlag (s : State) (x : Nibble) (result : Byte) (flag : Bool) : State :=
  (s.setReg x result).setReg 0xF (flagByte flag)

end Sys2Proof.Machine
end

