-- ==== Sys2Proof/Machine/Operands.lean ====
section
/-! DEFINITION. The operand forms: immediates widened with zeros, the address I + k, register lists, key indexes, the
key scan, the random byte, decimal digits. -/

namespace Sys2Proof.Machine

/-- `zext_16(nnn)` (spec/30_encoding.md R53). -/
def addr16 (nnn : Addr12) : Word := nnn.setWidth 16

/-- `zext_16` of a byte (R53). -/
def byte16 (b : Byte) : Word := b.setWidth 16

/-- The effective address I + k, on integers (spec/43_index_memory.md R116, spec/20_memory.md R40). -/
def indexed (s : State) (k : Nat) : Nat := s.i.toNat + k

/-- V0 to V(x-1), the exclusive bound of Fx55 and Fx65 (R114, R115). -/
def firstRegs (s : State) (x : Nibble) : List Byte := s.v.toList.take x.toNat

/-- The bytes written to V(k), V(k+1), … in order. -/
def writeRegs : List Byte → Nat → State → State
  | [], _, s => s
  | b :: bs, k, s => writeRegs bs (k + 1) (s.setReg (BitVec.ofNat 4 k) b)

/-- `KEY[k]` for a key index held in a byte; above 15 there is no key (spec/45_keypad.md R130). -/
def keyPressed (s : State) (k : Byte) : Res Bool :=
  if h : k.toNat < 16 then .next (s.key[k.toNat]'h) else raise .keyIndexOutOfRange

/-- The lowest pressed key, if one is pressed (R133). -/
def firstPressed (s : State) : Option Nat := s.key.toList.findIdx? (fun pressed => pressed)

/-- Cxnn with the drawn byte `r` (spec/42_alu.md R103); one more byte has then been drawn. -/
def drawInto (r : Byte) (x : Nibble) (nn : Byte) (s : State) : State :=
  { s with draws := s.draws + 1 }.setReg x (r &&& nn)

/-- Hundreds, tens and units of a byte, as digit values (spec/43_index_memory.md R113). -/
def decimalDigits (b : Byte) : List Byte :=
  [BitVec.ofNat 8 (b.toNat / 100), BitVec.ofNat 8 (b.toNat / 10 % 10), BitVec.ofNat 8 (b.toNat % 10)]

end Sys2Proof.Machine
end

