-- ==== Sys2Proof/Machine/Alu.lean ====
section
/-! DEFINITION. 6xnn, 7xnn, 8xy0 to 8xy7, 8xyE, Cxnn (spec/42_alu.md). Sources are read before anything is written (R90). -/

namespace Sys2Proof.Machine

/-- R91 -/
def execLdImm (x : Nibble) (nn : Byte) (s : State) : Res State := .next (s.setReg x nn)

/-- R92 -/
def execAddImm (x : Nibble) (nn : Byte) (s : State) : Res State := .next (s.setReg x (s.reg x + nn))

/-- R93 -/
def execLdReg (x y : Nibble) (s : State) : Res State := .next (s.setReg x (s.reg y))

/-- R94 -/
def execOrReg (x y : Nibble) (s : State) : Res State := .next (s.setReg x (s.reg x ||| s.reg y))

/-- R95 -/
def execAndReg (x y : Nibble) (s : State) : Res State := .next (s.setReg x (s.reg x &&& s.reg y))

/-- R96 -/
def execXorReg (x y : Nibble) (s : State) : Res State := .next (s.setReg x (s.reg x ^^^ s.reg y))

/-- R97 -/
def execAddReg (x y : Nibble) (s : State) : Res State :=
  .next (writeWithFlag s x (s.reg x + s.reg y) (carryOf (s.reg x) (s.reg y)))

/-- R98 -/
def execSubReg (x y : Nibble) (s : State) : Res State :=
  .next (writeWithFlag s x (s.reg x - s.reg y) (notBorrowOf (s.reg x) (s.reg y)))

/-- R99: the operand is Vx, and y plays no part (R59, assumption log 17). -/
def execShr (x _y : Nibble) (s : State) : Res State :=
  .next (writeWithFlag s x (s.reg x >>> 1) (lowBitOf (s.reg x)))

/-- R100 -/
def execSubnReg (x y : Nibble) (s : State) : Res State :=
  .next (writeWithFlag s x (s.reg y - s.reg x) (notBorrowOf (s.reg y) (s.reg x)))

/-- R101: the operand is Vx, and y plays no part (R59, assumption log 17). -/
def execShl (x _y : Nibble) (s : State) : Res State :=
  .next (writeWithFlag s x (s.reg x <<< 1) (highBitOf (s.reg x)))

/-- R103: the drawn byte is the free value `Config.rnd` at the state's count of draws (assumption log 3). -/
def execRnd (x : Nibble) (nn : Byte) (s : State) : Res State := .next (drawInto (Config.rnd s.draws) x nn s)

end Sys2Proof.Machine
end

