-- ==== Sys2Proof/Machine/Control.lean ====
section
/-! DEFINITION. 0000, 00EE, 1nnn, 2nnn, Bnnn (spec/40_control_flow.md). On entry pc is already past the instruction. -/

namespace Sys2Proof.Machine

/-- R72 -/
def execNop (s : State) : Res State := .next s

/-- R73 -/
def execRet (s : State) : Res State := andThen (pop s) fun p => .next { p.2 with pc := p.1 }

/-- R74 -/
def execJp (nnn : Addr12) (s : State) : Res State := .next { s with pc := addr16 nnn }

/-- R75 -/
def execCall (nnn : Addr12) (s : State) : Res State :=
  andThen (push s.pc s) fun t => .next { t with pc := addr16 nnn }

/-- R76 -/
def execJpV0 (nnn : Addr12) (s : State) : Res State := .next { s with pc := byte16 (s.reg 0) + addr16 nnn }

end Sys2Proof.Machine
end

