-- ==== Sys2Proof/Machine/Display.lean ====
section
/-! DEFINITION. The sprite engine, 00E0 and Dxyn (spec/44_display.md). -/

namespace Sys2Proof.Machine

/-- `FB[r][c]` (R120). -/
def pixelAt (fb : Framebuffer) (r : Fin 32) (c : Fin 64) : Bool := fb[r][c]

/-- `FB[r][c] <- not FB[r][c]`. -/
def togglePixel (fb : Framebuffer) (r : Fin 32) (c : Fin 64) : Framebuffer := fb.set r (fb[r].set c (!fb[r][c]))

/-- All pixels unlit. -/
def clearedFb : Framebuffer := Vector.replicate 32 (Vector.replicate 64 false)

/-- The row of sprite row `r`, wrapping (R122). -/
def spriteRow (y0 : Byte) (r : Nat) : Fin 32 := Fin.ofNat 32 (y0.toNat + r)

/-- The column of sprite column `c`, wrapping (R122). -/
def spriteCol (x0 : Byte) (c : Nat) : Fin 64 := Fin.ofNat 64 (x0.toNat + c)

/-- Bit 7 - c of a row byte is column offset c (R124, the spec's D7, assumption log 9). -/
def spriteBit (b : Byte) (c : Nat) : Bool := b.getLsbD (7 - c)

/-- One set bit of the sprite: a lit pixel is a hit, and the pixel is toggled. -/
def drawPixel (r : Fin 32) (c : Fin 64) (acc : Framebuffer × Bool) : Framebuffer × Bool :=
  (togglePixel acc.1 r c, acc.2 || pixelAt acc.1 r c)

/-- One row of the sprite, columns 0 to 7. -/
def drawByte (x0 : Byte) (row : Fin 32) (b : Byte) (acc : Framebuffer × Bool) : Framebuffer × Bool :=
  (List.range 8).foldl (fun a c => if spriteBit b c then drawPixel row (spriteCol x0 c) a else a) acc

/-- The rows of the sprite from row `r` on. -/
def drawRows (x0 y0 : Byte) : List Byte → Nat → Framebuffer × Bool → Framebuffer × Bool
  | [], _, acc => acc
  | b :: bs, r, acc => drawRows x0 y0 bs (r + 1) (drawByte x0 (spriteRow y0 r) b acc)

/-- R121 -/
def execCls (s : State) : Res State := .next { s with fb := clearedFb }

/-- R122: Vx, Vy and I are read before anything is written, VF is written once, last (the spec's D9, assumption log 10). -/
def execDrw (x y n : Nibble) (s : State) : Res State :=
  andThen (loadBytes s n.toNat (indexed s 0)) fun bs =>
    let drawn := drawRows (s.reg x) (s.reg y) bs 0 (s.fb, false)
    .next ({ s with fb := drawn.1 }.setReg 0xF (flagByte drawn.2))

end Sys2Proof.Machine
end

