-- ==== Sys2Proof/Machine/Index.lean ====
section
/-! DEFINITION. Annn, Fx1E, Fx29, Fx33, Fx55, Fx65 (spec/43_index_memory.md). No access changes I (R116). -/

namespace Sys2Proof.Machine

/-- R110 -/
def execLdI (nnn : Addr12) (s : State) : Res State := .next { s with i := addr16 nnn }

/-- R111 -/
def execAddI (x : Nibble) (s : State) : Res State := .next { s with i := s.i + byte16 (s.reg x) }

/-- R112: the whole of Vx is multiplied. -/
def execLdF (x : Nibble) (s : State) : Res State := .next { s with i := byte16 (s.reg x) * 5 }

/-- R113 -/
def execLdB (x : Nibble) (s : State) : Res State := storeBytes (decimalDigits (s.reg x)) (indexed s 0) s

/-- R114: Vx itself is not stored (assumption log 17). -/
def execStoreRegs (x : Nibble) (s : State) : Res State := storeBytes (firstRegs s x) (indexed s 0) s

/-- R115: Vx itself is not loaded (assumption log 17). -/
def execLoadRegs (x : Nibble) (s : State) : Res State :=
  andThen (loadBytes s x.toNat (indexed s 0)) fun bs => .next (writeRegs bs 0 s)

end Sys2Proof.Machine
end

