-- ==== Sys2Proof/Machine/Keypad.lean ====
section
/-! DEFINITION. Ex9E, ExA1, Fx0A (spec/45_keypad.md). -/

namespace Sys2Proof.Machine

/-- R131 -/
def execSkp (x : Nibble) (s : State) : Res State :=
  andThen (keyPressed s (s.reg x)) fun pressed => .next (skipIf pressed s)

/-- R132 -/
def execSknp (x : Nibble) (s : State) : Res State :=
  andThen (keyPressed s (s.reg x)) fun pressed => .next (skipIf (!pressed) s)

/-- R133: the lowest pressed key, or pc back onto this instruction. The wait keeps no state of its own. -/
def execLdVxK (x : Nibble) (s : State) : Res State :=
  match firstPressed s with
  | some k => .next (s.setReg x (BitVec.ofNat 8 k))
  | none => .next { s with pc := s.pc - 2 }

end Sys2Proof.Machine
end

