-- ==== Sys2Proof/Machine/Skips.lean ====
section
/-! DEFINITION. 3xnn, 4xnn, 5xy0, 9xy0 (spec/41_skips.md). -/

namespace Sys2Proof.Machine

/-- R81 -/
def execSeImm (x : Nibble) (nn : Byte) (s : State) : Res State := .next (skipIf (s.reg x == nn) s)

/-- R82 -/
def execSneImm (x : Nibble) (nn : Byte) (s : State) : Res State := .next (skipIf (s.reg x != nn) s)

/-- R83 -/
def execSeReg (x y : Nibble) (s : State) : Res State := .next (skipIf (s.reg x == s.reg y) s)

/-- R84 -/
def execSneReg (x y : Nibble) (s : State) : Res State := .next (skipIf (s.reg x != s.reg y) s)

end Sys2Proof.Machine
end

