-- ==== Sys2Proof/Machine/Timers.lean ====
section
/-! DEFINITION. Fx07, Fx15, Fx18 (spec/46_timer_instructions.md) and the Timer Unit (spec/60_exceptions.md R184). -/

namespace Sys2Proof.Machine

/-- R140 -/
def execLdVxDt (x : Nibble) (s : State) : Res State := .next (s.setReg x s.dt)

/-- R141 -/
def execLdDtVx (x : Nibble) (s : State) : Res State := .next { s with dt := s.reg x }

/-- R142: no event, whatever the old and new values. -/
def execLdStVx (x : Nibble) (s : State) : Res State := .next { s with st := s.reg x }

/-- One timer counts down and stops at 0. -/
def countDown (t : Byte) : Byte := if t = 0 then 0 else t - 1

/-- ADVANCE_TIMERS (R184): the state, and the tone_end event, which is the step of ST from 1 to 0. -/
def advanceTimers (s : State) : State × Bool :=
  ({ s with dt := countDown s.dt, st := countDown s.st }, s.st == 1)

end Sys2Proof.Machine
end

