-- ==== Sys2Proof/Machine/Step.lean ====
section
/-! DEFINITION. The step is TICK (spec/47_host_operations.md R152): fetch, decode, execute. -/

namespace Sys2Proof.Machine

/-- One TICK. -/
def step (s : State) : Host.Outcome State Fault Refusal := tickBody exec s

/-- The state with the instruction whose table bits are `w` placed where `step` fetches next (assumption log 19). -/
def State.withFetchWord (s : State) (nbits w : Nat) : State := placeWord nbits w s

end Sys2Proof.Machine
end

