-- ==== Sys2Proof/Machine/HostOps.lean ====
section
/-! DEFINITION. The operations through which the host drives the block (spec/47_host_operations.md R150), each atomic
and totally ordered (R151). `step` is TICK alone; the other operations land between ticks (assumption log 13). -/

namespace Sys2Proof.Machine

/-- One operation of R150 with its inputs. -/
inductive HostOp where
  /-- INITIALIZE, which creates a machine, with the parameter FONT (R200) -/
  | create (font : Vector Byte 80)
  /-- RESET with the parameter FONT (R201) -/
  | reset (font : Vector Byte 80)
  /-- LOAD_PROGRAM (R155) -/
  | loadProgram (image : List Byte)
  /-- TICK with its random byte (R152, R158) -/
  | tick (rnd : Byte)
  /-- ADVANCE_TIMERS (R153) -/
  | advanceTimers
  /-- SET_KEY (R154) -/
  | setKey (index : Nat) (pressed : Bool)
  /-- READ_FRAMEBUFFER (R156) -/
  | readFramebuffer
  /-- READ_STATE (R157) -/
  | readState
  deriving DecidableEq, Repr

/-- What the operation READ_STATE gives the host: the outputs listed in R150, which R26's read ports agree with. -/
structure StateView where
  dt : Byte
  st : Byte
  v : Vector Byte 16
  i : Word
  pc : Word
  sp : Word
  stack : Vector Word 16
  halted : Bool
  cause : BitVec 3
  deriving DecidableEq, Repr

/-- What the test port can observe: READ_STATE's outputs and the rest of R10's fields (R157, assumption log 22). -/
structure TestView extends StateView where
  mem : Memory
  key : Vector Bool 16
  fb : Framebuffer
  deriving DecidableEq, Repr

/-- What an operation gives back to the host (R150). -/
inductive HostOutput where
  /-- nothing, or the outcome `ok` of a TICK -/
  | none
  /-- the outcome Fatal(cause) of a TICK (R160) -/
  | fatal (cause : Fault)
  /-- tone_end of ADVANCE_TIMERS (R159) -/
  | toneEnd (event : Bool)
  /-- the grid of READ_FRAMEBUFFER -/
  | framebuffer (fb : Framebuffer)
  /-- the view of READ_STATE -/
  | view (v : StateView)
  deriving DecidableEq, Repr

/-- The state INITIALIZE and RESET leave (R200, R201). -/
def initialState (font : Vector Byte 80) : State :=
  { State.reset with mem := Memory.writeBytes font.toList 0 [] }

/-- INITIALIZE and RESET in a state: the whole of the machine's state is replaced. The count of draws is no state of the
machine, and goes on, so that no byte is drawn a second time (assumption log 3). -/
def startOver (font : Vector Byte 80) (s : State) : State := { initialState font with draws := s.draws }

/-- TICK with the random byte given by the host: only Cxnn uses it (R158). -/
def tickWith (rnd : Byte) (s : State) : Res State :=
  tickBody (fun i t => match i with
    | .rnd x nn => .next (drawInto rnd x nn t)
    | j => exec j t) s

/-- LOAD_PROGRAM: a plain copy from 0x200 up (R155, assumption log 14). -/
def loadProgram (image : List Byte) (s : State) : Res State :=
  if imageFits image.length then .next { s with mem := Memory.writeBytes image Config.loadAddress s.mem }
  else .refused .imageTooLarge

/-- SET_KEY (R154). -/
def setKey (index : Nat) (pressed : Bool) (s : State) : Res State :=
  if h : index < 16 then .next { s with key := s.key.set index pressed h } else .refused .keyIndexNotAKey

/-- READ_STATE (R150, R157). -/
def viewOf (s : State) : StateView := ⟨s.dt, s.st, s.v, s.i, s.pc, s.sp, s.stack, s.halted, s.cause⟩

/-- The test port: every field of R10, and no change to any (R157). It observes a state between operations, and is not one
of the host's operations, among whose read ports R26 gives MEM and KEY none (assumption log 22). -/
def testPort (s : State) : TestView := { viewOf s with mem := s.mem, key := s.key, fb := s.fb }

/-- An operation a halted machine has no transition for (R162). -/
def unlessHalted {α : Type} (s : State) (r : Res α) : Res α := if s.halted then .refused .machineHalted else r

/-- One host operation: the next state and the output. A fatal of TICK halts the machine (R172): `rest` is the
unspecified remainder of the halted state, an arbitrary argument (assumption log 4). -/
def operate (rest : State) (op : HostOp) (s : State) : Res (State × HostOutput) :=
  match op with
  | .create font => .next (startOver font s, .none)
  | .reset font => .next (startOver font s, .none)
  | .loadProgram image => unlessHalted s (andThen (loadProgram image s) fun t => .next (t, .none))
  | .tick rnd =>
    match tickWith rnd s with
    | .next t => .next (t, .none)
    | .fault f => .next (haltWith rest f, .fatal f)
    | .refused r => .refused r
  | .advanceTimers => unlessHalted s (.next ((advanceTimers s).1, .toneEnd (advanceTimers s).2))
  | .setKey index pressed => unlessHalted s (andThen (setKey index pressed s) fun t => .next (t, .none))
  | .readFramebuffer => .next (s, .framebuffer s.fb)
  | .readState => .next (s, .view (viewOf s))

/-- A schedule (R161): the host's operations in their one total order, each with the unspecified remainder of the halted
state that its fatal, if it has one, leaves. Gives the last state and the outputs in order. -/
def operateAll : List (State × HostOp) → State → Res (State × List HostOutput)
  | [], s => .next (s, [])
  | (rest, op) :: more, s =>
    andThen (operate rest op s) fun p => andThen (operateAll more p.1) fun q => .next (q.1, p.2 :: q.2)

end Sys2Proof.Machine
end

