-- ==== Sys2Proof/Safety.lean ====
section
/-! DEFINITION. The terms claims are stated in: the parts of the state and what leaves them alone, the invariant, the
condition of each fatal, and the end of a run. -/

namespace Sys2Proof

open Machine

/-! ## Parts of the state, for frames -/

/-- One observable part of the state (spec/10_state.md R10), down to one register, byte, entry, key or pixel. -/
inductive Part where
  | pc
  | reg (x : Nibble)
  | index
  | sp
  | entry (k : Fin 16)
  | delay
  | sound
  | key (k : Fin 16)
  | pixel (r : Fin 32) (c : Fin 64)
  | byte (a : Nat)
  | halt
  | draws
  deriving DecidableEq, Repr

/-- The part has the same value in both states. A byte of memory is compared by the model's read of it. -/
def Part.same (s t : State) : Part → Prop
  | .pc => t.pc = s.pc
  | .reg x => t.reg x = s.reg x
  | .index => t.i = s.i
  | .sp => t.sp = s.sp
  | .entry k => t.stack[k] = s.stack[k]
  | .delay => t.dt = s.dt
  | .sound => t.st = s.st
  | .key k => t.key[k] = s.key[k]
  | .pixel r c => pixelAt t.fb r c = pixelAt s.fb r c
  | .byte a => t.mem.readByte a = s.mem.readByte a
  | .halt => t.halted = s.halted ∧ t.cause = s.cause
  | .draws => t.draws = s.draws

/-- Every part outside `changed` has the same value in `t` as in `s`. -/
def KeepsAllBut (changed : Part → Prop) (s t : State) : Prop := ∀ p, ¬ changed p → p.same s t

/-- The outcome is a next state (or a value, of a part of a step) of which `P` holds. -/
def Completes {α : Type} (r : Res α) (P : α → Prop) : Prop := ∃ t, r = .next t ∧ P t

/-- The instruction word with this value decodes to `i`. -/
def HasWord (i : Instr) (value : Nat) : Prop := ∀ w : Word, w.toNat = value → decodeWord w = .ok i

/-- A set bit of the sprite falls on the pixel (spec/44_display.md R122, R124): row offset k, column offset j, bit 7 - j. -/
def SpriteCovers (s : State) (x y n : Nibble) (r : Fin 32) (c : Fin 64) : Prop :=
  ∃ k < n.toNat, ∃ j < 8, r.val = ((s.reg y).toNat + k) % 32 ∧ c.val = ((s.reg x).toNat + j) % 64 ∧
    (s.mem.readByte (s.i.toNat + k)).getLsbD (7 - j) = true

/-! ## The invariant -/

/-- The entries below SP hold return addresses, which fetch produced: 2 to 4096 (spec/40_control_flow.md R73). -/
def ReturnAddresses (s : State) : Prop :=
  ∀ k : Fin 16, k.val < s.sp.toNat → 2 ≤ (s.stack[k]).toNat ∧ (s.stack[k]).toNat ≤ 4096

/-- What every state of a run satisfies: memory is canonical, SP counts at most 16 entries (R16), pc is at most 0x10FE
(R14), the valid entries are return addresses (R73), and CAUSE is a code 0 to 6 that is 0 exactly when the machine is not
halted (R23). -/
structure Inv (s : State) : Prop where
  memory : s.mem.wf
  depth : s.sp.toNat ≤ 16
  pcBound : s.pc.toNat ≤ 0x10FE
  returns : ReturnAddresses s
  causeCode : s.cause.toNat ≤ 6
  haltCause : s.halted = true ↔ s.cause ≠ 0

/-! ## When a tick is fatal (spec/60_exceptions.md R173) -/

/-- The word at pc. -/
def wordAtPc (s : State) : Word := joinBytes (s.mem.readByte s.pc.toNat) (s.mem.readByte (s.pc.toNat + 1))

/-- pc can be fetched from and the word there is the instruction `i`. -/
def Fetches (s : State) (i : Instr) : Prop := s.pc.toNat ≤ 4094 ∧ decodeWord (wordAtPc s) = .ok i

/-- The condition of R173 and R178, on the state before the TICK. -/
def FatalCondition (s : State) : Fault → Prop
  | .stackOverflow => ∃ nnn, Fetches s (.call nnn) ∧ s.sp.toNat ≥ 16
  | .stackUnderflow => Fetches s .ret ∧ s.sp = 0
  | .illegalInstruction => s.pc.toNat ≤ 4094 ∧ ∀ i, decodeWord (wordAtPc s) ≠ .ok i
  | .fetchOutOfBounds => s.pc.toNat > 4094
  | .memoryOutOfBounds =>
    (∃ x y n, Fetches s (.drw x y n) ∧ n.toNat ≥ 1 ∧ s.i.toNat + n.toNat - 1 > 4095) ∨
    (∃ x, Fetches s (.ldB x) ∧ s.i.toNat + 2 > 4095) ∨
    (∃ x, (Fetches s (.storeRegs x) ∨ Fetches s (.loadRegs x)) ∧ x.toNat ≥ 1 ∧ s.i.toNat + x.toNat - 1 > 4095)
  | .keyIndexOutOfRange => ∃ x, (Fetches s (.skp x) ∨ Fetches s (.sknp x)) ∧ (s.reg x).toNat > 15

/-! ## The end of a run (spec/47_host_operations.md R165) -/

/-- The instruction at pc is a jump to itself, which R165 suggests as the end of a program (assumption log 20). -/
def AtSelfJump (s : State) : Prop := s.halted = false ∧ ∃ nnn : Addr12, Fetches s (.jp nnn) ∧ s.pc = addr16 nnn

end Sys2Proof
end

