-- ==== Sys2Proof/Certificates/Slice0/Obligations.lean ====
section
/-! DEFINITION. The statements for the provers, each with the rule or the section of spec/ it formalises.
In the statements about `exec`, pc is already past the instruction (spec/20_memory.md R36). -/

open Sys2Proof Sys2Proof.Machine

/-! ## Reset -/

/-- R200: every field after INITIALIZE with any FONT, which cannot fail. (That HALTED and CAUSE are fields is the spec's own
rendering of a fatal, its D2, assumption log 4.) -/
def Obligations.InitializeZeroesAndInstallsFont : Prop :=
  ∀ (font : Vector Byte 80) (rest s : State), ∃ t, operate rest (.create font) s = .next (t, .none) ∧
    t.pc = 0x200 ∧ (∀ x, t.reg x = 0) ∧ t.i = 0 ∧ t.sp = 0 ∧ (∀ k : Fin 16, t.stack[k] = 0) ∧ t.dt = 0 ∧ t.st = 0 ∧
    (∀ k : Fin 16, t.key[k] = false) ∧ (∀ r c, pixelAt t.fb r c = false) ∧ t.halted = false ∧ t.cause = 0 ∧
    (∀ a : Fin 80, t.mem.readByte a = font[a]) ∧ (∀ a, 80 ≤ a → a < 4096 → t.mem.readByte a = 0)

/-- R201: RESET succeeds in every state, the halted one included, and leaves what INITIALIZE leaves; nothing of the state
before survives (the count of draws is no state of the machine), and there is no tone_end. -/
def Obligations.ResetReplacesWholeState : Prop :=
  ∀ (font : Vector Byte 80) (rest rest' s s' : State), ∃ t t',
    operate rest (.reset font) s = .next (t, .none) ∧ operate rest' (.create font) s' = .next (t', .none) ∧
    KeepsAllBut (· = .draws) t t'

/-- R202: execution begins at 0x200, and the first TICK with no program loaded executes NOP. -/
def Obligations.FirstTickAfterResetIsNop : Prop :=
  ∀ (font : Vector Byte 80) (rest s t : State), operate rest (.reset font) s = .next (t, .none) →
    t.pc = 0x200 ∧ wordAtPc t = 0 ∧ Fetches t .nop ∧
    Completes (step t) fun u => u.pc = 0x202 ∧ KeepsAllBut (· = .pc) t u

/-- The invariant holds at reset, with the default FONT and with any other. -/
def Obligations.ResetMeetsInv : Prop := Inv State.reset ∧ ∀ font, Inv (initialState font)

/-! ## Decoding and encoding -/

/-- Words written out from R55, at least one for each of the sixteen families f1 of R54, and for some of the rows of the
families with several. -/
def Obligations.WrittenOutWordsDecode : Prop :=
  decodeWord 0x0000 = .ok .nop ∧ decodeWord 0x00E0 = .ok .cls ∧ decodeWord 0x00EE = .ok .ret ∧
  decodeWord 0x1ABC = .ok (.jp 0xABC) ∧ decodeWord 0x2DEF = .ok (.call 0xDEF) ∧ decodeWord 0x3A12 = .ok (.seImm 0xA 0x12) ∧
  decodeWord 0x4B34 = .ok (.sneImm 0xB 0x34) ∧ decodeWord 0x5120 = .ok (.seReg 1 2) ∧ decodeWord 0x6A05 = .ok (.ldImm 0xA 5) ∧
  decodeWord 0x7BFE = .ok (.addImm 0xB 0xFE) ∧ decodeWord 0x812E = .ok (.shl 1 2) ∧ decodeWord 0x9CD0 = .ok (.sneReg 0xC 0xD) ∧
  decodeWord 0xA9C1 = .ok (.ldI 0x9C1) ∧ decodeWord 0xB3A5 = .ok (.jpV0 0x3A5) ∧ decodeWord 0xC30F = .ok (.rnd 3 0x0F) ∧
  decodeWord 0xD12F = .ok (.drw 1 2 0xF) ∧
  decodeWord 0xE49E = .ok (.skp 4) ∧ decodeWord 0xF518 = .ok (.ldStVx 5) ∧ decodeWord 0xF365 = .ok (.loadRegs 3) ∧
  decodeWord 0x8128 = .error .illegal8xyn

/-- Decoding what the encoder gives returns the instruction, with every operand, as a word and as bytes in memory order. -/
def Obligations.DecodeOfEncode : Prop :=
  ∀ i : Instr, i.wellFormed = true → decodeWord (encode i) = .ok i ∧
    ∀ rest, decode (wordBytes (encode i) ++ rest) = .ok (i, rest)

/-- A word that decodes is the encoding of what it decodes to: no bit of a legal word is dropped. -/
def Obligations.EncodeOfDecode : Prop := ∀ (w : Word) (i : Instr), decodeWord w = .ok i → encode i = w

/-- R55: a word decodes exactly when it selects a row, the row is that of the decoded instruction, and no word selects two. -/
def Obligations.DecoderFollowsOpcodeMap : Prop :=
  opcodeMap.length = 35 ∧
  (∀ w i, decodeWord w = .ok i → ∃ row, opcodeMap[i.rowNumber]? = some row ∧ w &&& row.mask = row.code) ∧
  (∀ w, ∀ row ∈ opcodeMap, w &&& row.mask = row.code → ∃ i, decodeWord w = .ok i) ∧
  (∀ w, ∀ row ∈ opcodeMap, ∀ row' ∈ opcodeMap, w &&& row.mask = row.code → w &&& row'.mask = row'.code → row = row')

/-- R57, family by family: the words that are no instruction. -/
def Obligations.IllegalWordsByFamily : Prop :=
  ∀ w : Word, (∀ i, decodeWord w ≠ .ok i) ↔
    (w.toNat / 4096 = 0 ∧ w.toNat ≠ 0x0000 ∧ w.toNat ≠ 0x00E0 ∧ w.toNat ≠ 0x00EE) ∨
    ((w.toNat / 4096 = 5 ∨ w.toNat / 4096 = 9) ∧ w.toNat % 16 ≠ 0) ∨
    (w.toNat / 4096 = 8 ∧ w.toNat % 16 ∈ [8, 9, 0xA, 0xB, 0xC, 0xD, 0xF]) ∨
    (w.toNat / 4096 = 0xE ∧ w.toNat % 256 ∉ [0x9E, 0xA1]) ∨
    (w.toNat / 4096 = 0xF ∧ w.toNat % 256 ∉ [0x07, 0x0A, 0x15, 0x18, 0x1E, 0x29, 0x33, 0x55, 0x65])

/-! ## The tick -/

/-- R36: fetch reads the two bytes at pc, high byte first, at any alignment (R37), and moves pc by 2 and nothing else;
above 4094 it is fatal. -/
def Obligations.FetchReadsWordAndAdvances : Prop :=
  ∀ s : State,
    (s.pc.toNat ≤ 4094 → Completes (fetch s) fun p =>
      p.1.toNat = (s.mem.readByte s.pc.toNat).toNat * 256 + (s.mem.readByte (s.pc.toNat + 1)).toNat ∧
      p.2.pc.toNat = (s.pc.toNat + 2) % 65536 ∧ KeepsAllBut (· = .pc) s p.2) ∧
    (s.pc.toNat > 4094 → fetch s = .fault .fetchOutOfBounds)

/-- A step runs the decoded instruction, on the state whose pc is past it. -/
def Obligations.StepRunsDecodedInstruction : Prop :=
  ∀ (s : State) (i : Instr), s.halted = false → s.pc.toNat ≤ 4094 → i.wellFormed = true →
    decodeWord (joinBytes (s.mem.readByte s.pc.toNat) (s.mem.readByte (s.pc.toNat + 1))) = .ok i →
    step s = exec i { s with pc := s.pc + 2 }

/-- The placed word is the one the next step runs, in every state whose memory is canonical. -/
def Obligations.PlacedWordRunsNext : Prop :=
  ∀ (s : State) (w : Nat) (i : Instr), s.mem.wf → decodeTableWord 16 w = some i →
    step (s.withFetchWord 16 w) = exec i { s.withFetchWord 16 w with pc := (s.withFetchWord 16 w).pc + 2 }

/-- R56: a word that selects no row is fatal when a tick fetches it. -/
def Obligations.UnmatchedWordIsFatal : Prop :=
  ∀ s : State, s.halted = false → s.pc.toNat ≤ 4094 → (∀ row ∈ opcodeMap, wordAtPc s &&& row.mask ≠ row.code) →
    step s = .fault .illegalInstruction

/-- R173's table: a tick is fatal exactly on the condition of that fatal. The conditions of codes 5 and 6 are the spec's own
decisions D5 and D6 (assumption log 6, 7), and the order of the checks its D23 (log 23). -/
def Obligations.FatalExactlyOnItsCondition : Prop :=
  ∀ (s : State) (f : Fault), s.halted = false → (step s = .fault f ↔ FatalCondition s f)

/-- The only ticks without a transition: on a halted machine (the spec's D14, assumption log 5), and RET with SP above 16, which
is no state of the machine (log 12). -/
def Obligations.RefusalsOfStep : Prop :=
  ∀ (s : State) (r : Refusal), step s = .refused r ↔
    (s.halted = true ∧ r = .machineHalted) ∨
    (s.halted = false ∧ Fetches s .ret ∧ s.sp.toNat > 16 ∧ r = .stackPointerOutOfRange)

/-- Every step keeps the invariant. -/
def Obligations.StepKeepsInv : Prop := ∀ s t : State, Inv s → step s = .next t → Inv t

/-! ## Control flow -/

/-- R72 -/
def Obligations.NopOnlyAdvances : Prop :=
  (∀ w, decodeWord w = .ok .nop ↔ w = 0x0000) ∧ ∀ s : State, exec .nop s = .next s

/-- R74 -/
def Obligations.JpLoadsPc : Prop :=
  ∀ (nnn : Addr12) (s : State), HasWord (.jp nnn) (0x1000 + nnn.toNat) ∧
    Completes (exec (.jp nnn) s) fun t => t.pc.toNat = nnn.toNat ∧ KeepsAllBut (· = .pc) s t

/-- R76 -/
def Obligations.JpV0AddsV0 : Prop :=
  ∀ (nnn : Addr12) (s : State), HasWord (.jpV0 nnn) (0xB000 + nnn.toNat) ∧
    Completes (exec (.jpV0 nnn) s) fun t => t.pc.toNat = (s.reg 0).toNat + nnn.toNat ∧ KeepsAllBut (· = .pc) s t

/-- R75, with push of R70: the entry at SP receives pc, SP counts it, pc becomes nnn; the seventeenth nested call is fatal.
That SP is the number of valid entries, so that the entry at SP is written and SP then counts it, is the spec's own D18
(assumption log 12). -/
def Obligations.CallPushesAndJumps : Prop :=
  ∀ (nnn : Addr12) (s : State), HasWord (.call nnn) (0x2000 + nnn.toNat) ∧
    (∀ h : s.sp.toNat < 16, Completes (exec (.call nnn) s) fun t =>
      t.stack[s.sp.toNat] = s.pc ∧ t.sp.toNat = s.sp.toNat + 1 ∧ t.pc.toNat = nnn.toNat ∧
      KeepsAllBut (fun p => p = .pc ∨ p = .sp ∨ p = .entry ⟨s.sp.toNat, h⟩) s t) ∧
    (s.sp.toNat ≥ 16 → exec (.call nnn) s = .fault .stackOverflow)

/-- R73, with pop of R71: pc becomes the entry below SP, which stays in place, and SP counts one less; with an empty stack it
is fatal. Where the valid entries are return addresses, pc is 2 to 4096. The round trip: a RET that finds SP, and the entry a CALL
wrote, as that CALL left them returns behind the CALL, whatever the stale entries hold (R17), so after nested calls that have
returned too. That the entry popped is the one below SP is the spec's own D18 (assumption log 12). -/
def Obligations.RetPopsIntoPc : Prop :=
  (∀ w, decodeWord w = .ok .ret ↔ w = 0x00EE) ∧
  (∀ s : State,
    (∀ h : 1 ≤ s.sp.toNat ∧ s.sp.toNat ≤ 16, Completes (exec .ret s) fun t =>
      t.pc = s.stack[s.sp.toNat - 1] ∧ t.sp.toNat = s.sp.toNat - 1 ∧ (ReturnAddresses s → 2 ≤ t.pc.toNat ∧ t.pc.toNat ≤ 4096) ∧
      KeepsAllBut (fun p => p = .pc ∨ p = .sp) s t) ∧
    (s.sp = 0 → exec .ret s = .fault .stackUnderflow)) ∧
  ∀ (nnn : Addr12) (s t t' : State), exec (.call nnn) s = .next t → t'.sp = t.sp →
    (∀ k : Fin 16, k.val = s.sp.toNat → t'.stack[k] = t.stack[k]) →
    Completes (exec .ret t') fun u => u.pc = s.pc ∧ u.sp = s.sp

/-- A jump to itself is a fixed point of the tick, which R165 suggests as the end of a program (assumption log 20). -/
def Obligations.SelfJumpIsFixedPoint : Prop := ∀ s : State, AtSelfJump s → step s = .next s

/-! ## Skips -/

/-- R81, R82 -/
def Obligations.ImmediateSkips : Prop :=
  ∀ (x : Nibble) (nn : Byte) (s : State),
    HasWord (.seImm x nn) (0x3000 + 256 * x.toNat + nn.toNat) ∧ HasWord (.sneImm x nn) (0x4000 + 256 * x.toNat + nn.toNat) ∧
    (Completes (exec (.seImm x nn) s) fun t => KeepsAllBut (· = .pc) s t ∧
      t.pc.toNat = if (s.reg x).toNat = nn.toNat then (s.pc.toNat + 2) % 65536 else s.pc.toNat) ∧
    (Completes (exec (.sneImm x nn) s) fun t => KeepsAllBut (· = .pc) s t ∧
      t.pc.toNat = if (s.reg x).toNat = nn.toNat then s.pc.toNat else (s.pc.toNat + 2) % 65536)

/-- R83, R84 -/
def Obligations.RegisterSkips : Prop :=
  (∀ w : Word, (w.toNat / 4096 = 5 ∨ w.toNat / 4096 = 9) → w.toNat % 16 ≠ 0 → ∀ i, decodeWord w ≠ .ok i) ∧
  ∀ (x y : Nibble) (s : State),
    HasWord (.seReg x y) (0x5000 + 256 * x.toNat + 16 * y.toNat) ∧ HasWord (.sneReg x y) (0x9000 + 256 * x.toNat + 16 * y.toNat) ∧
    (Completes (exec (.seReg x y) s) fun t => KeepsAllBut (· = .pc) s t ∧
      t.pc.toNat = if (s.reg x).toNat = (s.reg y).toNat then (s.pc.toNat + 2) % 65536 else s.pc.toNat) ∧
    (Completes (exec (.sneReg x y) s) fun t => KeepsAllBut (· = .pc) s t ∧
      t.pc.toNat = if (s.reg x).toNat = (s.reg y).toNat then s.pc.toNat else (s.pc.toNat + 2) % 65536)

/-! ## ALU -/

/-- R91, R93 -/
def Obligations.RegisterLoads : Prop :=
  ∀ (x y : Nibble) (nn : Byte) (s : State),
    HasWord (.ldImm x nn) (0x6000 + 256 * x.toNat + nn.toNat) ∧ HasWord (.ldReg x y) (0x8000 + 256 * x.toNat + 16 * y.toNat) ∧
    (Completes (exec (.ldImm x nn) s) fun t => t.reg x = nn ∧ KeepsAllBut (· = .reg x) s t) ∧
    (Completes (exec (.ldReg x y) s) fun t => t.reg x = s.reg y ∧ KeepsAllBut (· = .reg x) s t)

/-- R92: it wraps, and VF changes only as the destination. -/
def Obligations.AddImmediateWraps : Prop :=
  ∀ (x : Nibble) (nn : Byte) (s : State), HasWord (.addImm x nn) (0x7000 + 256 * x.toNat + nn.toNat) ∧
    Completes (exec (.addImm x nn) s) fun t =>
      (t.reg x).toNat = ((s.reg x).toNat + nn.toNat) % 256 ∧ KeepsAllBut (· = .reg x) s t

/-- R94, R95, R96: bit by bit, with VF unchanged. -/
def Obligations.LogicBitByBit : Prop :=
  ∀ (x y : Nibble) (s : State),
    HasWord (.orReg x y) (0x8001 + 256 * x.toNat + 16 * y.toNat) ∧ HasWord (.andReg x y) (0x8002 + 256 * x.toNat + 16 * y.toNat) ∧
    HasWord (.xorReg x y) (0x8003 + 256 * x.toNat + 16 * y.toNat) ∧
    (Completes (exec (.orReg x y) s) fun t => KeepsAllBut (· = .reg x) s t ∧
      ∀ j < 8, (t.reg x).getLsbD j = ((s.reg x).getLsbD j || (s.reg y).getLsbD j)) ∧
    (Completes (exec (.andReg x y) s) fun t => KeepsAllBut (· = .reg x) s t ∧
      ∀ j < 8, (t.reg x).getLsbD j = ((s.reg x).getLsbD j && (s.reg y).getLsbD j)) ∧
    (Completes (exec (.xorReg x y) s) fun t => KeepsAllBut (· = .reg x) s t ∧
      ∀ j < 8, (t.reg x).getLsbD j = ((s.reg x).getLsbD j != (s.reg y).getLsbD j))

/-- R97: VF is the carry, written last, so at x = F it is the carry and the sum is lost. -/
def Obligations.AddSetsCarry : Prop :=
  ∀ (x y : Nibble) (s : State), HasWord (.addReg x y) (0x8004 + 256 * x.toNat + 16 * y.toNat) ∧
    Completes (exec (.addReg x y) s) fun t =>
      t.reg 0xF = (if (s.reg x).toNat + (s.reg y).toNat > 255 then 1 else 0) ∧
      (x ≠ 0xF → (t.reg x).toNat = ((s.reg x).toNat + (s.reg y).toNat) % 256) ∧
      KeepsAllBut (fun p => p = .reg x ∨ p = .reg 0xF) s t

/-- R98: VF is 0 exactly on a borrow, written last, so at x = F it is the flag and the difference is lost. -/
def Obligations.SubSetsNotBorrow : Prop :=
  ∀ (x y : Nibble) (s : State), HasWord (.subReg x y) (0x8005 + 256 * x.toNat + 16 * y.toNat) ∧
    Completes (exec (.subReg x y) s) fun t =>
      t.reg 0xF = (if (s.reg x).toNat < (s.reg y).toNat then 0 else 1) ∧
      (x ≠ 0xF → ((t.reg x).toNat : Int) = ((s.reg x).toNat - (s.reg y).toNat : Int) % 256) ∧
      KeepsAllBut (fun p => p = .reg x ∨ p = .reg 0xF) s t

/-- R100: the subtraction is Vy - Vx, and its borrow is when Vy < Vx. -/
def Obligations.SubnSetsNotBorrow : Prop :=
  ∀ (x y : Nibble) (s : State), HasWord (.subnReg x y) (0x8007 + 256 * x.toNat + 16 * y.toNat) ∧
    Completes (exec (.subnReg x y) s) fun t =>
      t.reg 0xF = (if (s.reg y).toNat < (s.reg x).toNat then 0 else 1) ∧
      (x ≠ 0xF → ((t.reg x).toNat : Int) = ((s.reg y).toNat - (s.reg x).toNat : Int) % 256) ∧
      KeepsAllBut (fun p => p = .reg x ∨ p = .reg 0xF) s t

/-- The two shifts of Vx. At x = F the flag is written last: that is the spec's own decision D8 (assumption log 8). -/
def Obligations.ShiftsSetDroppedBit : Prop :=
  ∀ (x y : Nibble) (s : State),
    HasWord (.shr x y) (0x8006 + 256 * x.toNat + 16 * y.toNat) ∧ HasWord (.shl x y) (0x800E + 256 * x.toNat + 16 * y.toNat) ∧
    (Completes (exec (.shr x y) s) fun t => t.reg 0xF = BitVec.ofNat 8 ((s.reg x).toNat % 2) ∧
      (x ≠ 0xF → (t.reg x).toNat = (s.reg x).toNat / 2) ∧ KeepsAllBut (fun p => p = .reg x ∨ p = .reg 0xF) s t) ∧
    (Completes (exec (.shl x y) s) fun t => t.reg 0xF = BitVec.ofNat 8 ((s.reg x).toNat / 128) ∧
      (x ≠ 0xF → (t.reg x).toNat = (s.reg x).toNat * 2 % 256) ∧ KeepsAllBut (fun p => p = .reg x ∨ p = .reg 0xF) s t)

/-- The field y of the shifts plays no part: V[y] is not read. -/
def Obligations.ShiftsDoNotReadVy : Prop :=
  ∀ (x y y' : Nibble) (b : Byte) (s : State), y ≠ x → y ≠ 0xF →
    exec (.shr x y) s = exec (.shr x y') s ∧ exec (.shl x y) s = exec (.shl x y') s ∧
    (∀ t, exec (.shr x y) s = .next t → exec (.shr x y) (s.setReg y b) = .next (t.setReg y b)) ∧
    (∀ t, exec (.shl x y) s = .next t → exec (.shl x y) (s.setReg y b) = .next (t.setReg y b))

/-- Cxnn masks the drawn byte. In `step` the byte is the free value `Config.rnd` (assumption log 3), and in the host's TICK it is
the input; the statement holds for every byte. -/
def Obligations.RndMasksDrawnByte : Prop :=
  ∀ (x : Nibble) (nn : Byte) (s : State), HasWord (.rnd x nn) (0xC000 + 256 * x.toNat + nn.toNat) ∧
    (Completes (exec (.rnd x nn) s) fun t => t.draws = s.draws + 1 ∧
      (∀ j < 8, (t.reg x).getLsbD j = ((Config.rnd s.draws).getLsbD j && nn.getLsbD j)) ∧
      KeepsAllBut (fun p => p = .reg x ∨ p = .draws) s t) ∧
    (∀ r : Byte, s.halted = false → Fetches s (.rnd x nn) → Completes (tickWith r s) fun t =>
      (∀ j < 8, (t.reg x).getLsbD j = (r.getLsbD j && nn.getLsbD j)) ∧
      KeepsAllBut (fun p => p = .reg x ∨ p = .draws ∨ p = .pc) s t)

/-- Only Cxnn uses the random byte, and no fatal depends on it; `step` is the TICK whose byte is the free value. -/
def Obligations.RandomByteReachesOnlyRnd : Prop :=
  (∀ (r r' : Byte) (s : State), (∀ x nn, ¬ Fetches s (.rnd x nn)) → tickWith r s = tickWith r' s) ∧
  (∀ (r r' : Byte) (s : State) (f : Fault), tickWith r s = .fault f ↔ tickWith r' s = .fault f) ∧
  (∀ s : State, step s = tickWith (Config.rnd s.draws) s)

/-! ## Index and memory -/

/-- R110, R111, R112: I is loaded, moved by Vx with no flag, or pointed at the glyph of the whole Vx. -/
def Obligations.IndexWrites : Prop :=
  ∀ (nnn : Addr12) (x : Nibble) (s : State),
    HasWord (.ldI nnn) (0xA000 + nnn.toNat) ∧ HasWord (.addI x) (0xF01E + 256 * x.toNat) ∧ HasWord (.ldF x) (0xF029 + 256 * x.toNat) ∧
    (Completes (exec (.ldI nnn) s) fun t => t.i.toNat = nnn.toNat ∧ KeepsAllBut (· = .index) s t) ∧
    (Completes (exec (.addI x) s) fun t => t.i.toNat = (s.i.toNat + (s.reg x).toNat) % 65536 ∧ KeepsAllBut (· = .index) s t) ∧
    (Completes (exec (.ldF x) s) fun t => t.i.toNat = (s.reg x).toNat * 5 ∧ KeepsAllBut (· = .index) s t)

/-- R33, R35: a byte read changes nothing; a byte written is read back, and nothing else changes. -/
def Obligations.ByteReadAndWrite : Prop :=
  ∀ (s : State) (a : Nat) (b : Byte), a ≤ 4095 →
    memRead s a = .next (s.mem.readByte a) ∧
    (s.mem.wf → Completes (memWrite s a b) fun t => memRead t a = .next b ∧ t.mem.wf ∧ KeepsAllBut (· = .byte a) s t)

/-- Fx33 stores the decimal digits at I, I+1, I+2. An access above 4095 is fatal by the spec's own decision D5 (assumption
log 6). -/
def Obligations.BcdStoresDigits : Prop :=
  ∀ (x : Nibble) (s : State), HasWord (.ldB x) (0xF033 + 256 * x.toNat) ∧
    (s.mem.wf → s.i.toNat + 2 ≤ 4095 → Completes (exec (.ldB x) s) fun t =>
      (t.mem.readByte (indexed s 0)).toNat = (s.reg x).toNat / 100 ∧
      (t.mem.readByte (indexed s 1)).toNat = (s.reg x).toNat / 10 % 10 ∧
      (t.mem.readByte (indexed s 2)).toNat = (s.reg x).toNat % 10 ∧
      KeepsAllBut (fun p => p = .byte (indexed s 0) ∨ p = .byte (indexed s 1) ∨ p = .byte (indexed s 2)) s t) ∧
    (s.i.toNat + 2 > 4095 → exec (.ldB x) s = .fault .memoryOutOfBounds)

/-- Fx55 stores V0 to V(x-1) from I up, not Vx, and I is unchanged. An access above 4095 is fatal by D5 (assumption log 6); with
x = 0 there is none. -/
def Obligations.StoreRegsExclusive : Prop :=
  ∀ (x : Nibble) (s : State), HasWord (.storeRegs x) (0xF055 + 256 * x.toNat) ∧
    (s.mem.wf → (x.toNat = 0 ∨ s.i.toNat + x.toNat - 1 ≤ 4095) → Completes (exec (.storeRegs x) s) fun t =>
      (∀ k : Nibble, k.toNat < x.toNat → t.mem.readByte (indexed s k.toNat) = s.reg k) ∧
      KeepsAllBut (fun p => ∃ k < x.toNat, p = .byte (indexed s k)) s t) ∧
    (x.toNat ≠ 0 → s.i.toNat + x.toNat - 1 > 4095 → exec (.storeRegs x) s = .fault .memoryOutOfBounds)

/-- Fx65 loads V0 to V(x-1) from I up, not Vx, and I is unchanged. An access above 4095 is fatal by D5 (assumption log 6); with
x = 0 there is none. -/
def Obligations.LoadRegsExclusive : Prop :=
  ∀ (x : Nibble) (s : State), HasWord (.loadRegs x) (0xF065 + 256 * x.toNat) ∧
    ((x.toNat = 0 ∨ s.i.toNat + x.toNat - 1 ≤ 4095) → Completes (exec (.loadRegs x) s) fun t =>
      (∀ k : Nibble, k.toNat < x.toNat → t.reg k = s.mem.readByte (indexed s k.toNat)) ∧
      KeepsAllBut (fun p => ∃ k : Nibble, k.toNat < x.toNat ∧ p = .reg k) s t) ∧
    (x.toNat ≠ 0 → s.i.toNat + x.toNat - 1 > 4095 → exec (.loadRegs x) s = .fault .memoryOutOfBounds)

/-- A store into the bytes at pc is what the very next fetch reads: no fence is needed. -/
def Obligations.StoreSeenByNextFetch : Prop :=
  ∀ (s t : State) (a : Nat) (b : Byte), s.mem.wf → memWrite s a b = .next t →
    (s.pc.toNat = a → a ≤ 4094 → Completes (fetch t) fun p => p.1.toNat / 256 = b.toNat) ∧
    (s.pc.toNat + 1 = a → Completes (fetch t) fun p => p.1.toNat % 256 = b.toNat)

/-! ## Display -/

/-- R121 -/
def Obligations.ClsClearsEveryPixel : Prop :=
  (∀ w, decodeWord w = .ok .cls ↔ w = 0x00E0) ∧ ∀ s : State, Completes (exec .cls s) fun t =>
    (∀ r c, pixelAt t.fb r c = false) ∧ KeepsAllBut (fun p => ∃ r c, p = .pixel r c) s t

/-- Dxyn toggles exactly the pixels under the sprite's set bits, wrapping, and VF is 1 exactly when one of them was lit. The bit
order is the spec's D7 (assumption log 9), the sampling of Vx, Vy, I its D9 (log 10), the fatal its D5 (log 6). -/
def Obligations.DrwTogglesSpritePixels : Prop :=
  ∀ (x y n : Nibble) (s : State), HasWord (.drw x y n) (0xD000 + 256 * x.toNat + 16 * y.toNat + n.toNat) ∧
    ((n.toNat = 0 ∨ s.i.toNat + n.toNat - 1 ≤ 4095) → Completes (exec (.drw x y n) s) fun t =>
      (∀ r c, pixelAt t.fb r c ≠ pixelAt s.fb r c ↔ SpriteCovers s x y n r c) ∧
      (t.reg 0xF = 0 ∨ t.reg 0xF = 1) ∧
      (t.reg 0xF = 1 ↔ ∃ r c, pixelAt s.fb r c = true ∧ pixelAt t.fb r c = false) ∧
      KeepsAllBut (fun p => p = .reg 0xF ∨ ∃ r c, p = .pixel r c ∧ SpriteCovers s x y n r c) s t) ∧
    (n.toNat ≠ 0 → s.i.toNat + n.toNat - 1 > 4095 → exec (.drw x y n) s = .fault .memoryOutOfBounds)

/-- R123: a second draw with the same Vx, Vy, I and sprite bytes restores the framebuffer, and its VF is 1 exactly when a pixel
the first draw toggled was lit after it, that is, unlit before it. -/
def Obligations.DrawTwiceRestores : Prop :=
  ∀ (x y n : Nibble) (s t t' u : State), exec (.drw x y n) s = .next t →
    t'.fb = t.fb → t'.reg x = s.reg x → t'.reg y = s.reg y → t'.i = s.i →
    (∀ k < n.toNat, t'.mem.readByte (s.i.toNat + k) = s.mem.readByte (s.i.toNat + k)) →
    exec (.drw x y n) t' = .next u →
    (∀ r c, pixelAt u.fb r c = pixelAt s.fb r c) ∧
    (u.reg 0xF = 1 ↔ ∃ r c, pixelAt t.fb r c ≠ pixelAt s.fb r c ∧ pixelAt t.fb r c = true) ∧
    (u.reg 0xF = 1 ↔ ∃ r c, pixelAt t.fb r c ≠ pixelAt s.fb r c ∧ pixelAt s.fb r c = false)

/-! ## Keypad and timers -/

/-- Ex9E and ExA1 skip on the key Vx names. A Vx above 15 is fatal by the spec's own decision D6 (assumption log 7). -/
def Obligations.KeySkips : Prop :=
  ∀ (x : Nibble) (s : State), HasWord (.skp x) (0xE09E + 256 * x.toNat) ∧ HasWord (.sknp x) (0xE0A1 + 256 * x.toNat) ∧
    (∀ h : (s.reg x).toNat < 16,
      (Completes (exec (.skp x) s) fun t => KeepsAllBut (· = .pc) s t ∧
        t.pc.toNat = if s.key[(s.reg x).toNat] = true then (s.pc.toNat + 2) % 65536 else s.pc.toNat) ∧
      (Completes (exec (.sknp x) s) fun t => KeepsAllBut (· = .pc) s t ∧
        t.pc.toNat = if s.key[(s.reg x).toNat] = true then s.pc.toNat else (s.pc.toNat + 2) % 65536)) ∧
    ((s.reg x).toNat ≥ 16 → exec (.skp x) s = .fault .keyIndexOutOfRange ∧ exec (.sknp x) s = .fault .keyIndexOutOfRange)

/-- R133: the lowest pressed key goes to Vx; with none pressed pc moves back by 2, and the whole tick changes nothing. -/
def Obligations.KeyWaitTakesLowestOrRepeats : Prop :=
  ∀ (x : Nibble) (s : State), HasWord (.ldVxK x) (0xF00A + 256 * x.toNat) ∧
    (∀ k : Fin 16, s.key[k] = true → (∀ j : Fin 16, j < k → s.key[j] = false) → Completes (exec (.ldVxK x) s) fun t =>
      (t.reg x).toNat = k.val ∧ KeepsAllBut (· = .reg x) s t) ∧
    ((∀ k : Fin 16, s.key[k] = false) →
      (Completes (exec (.ldVxK x) s) fun t => t.pc.toNat = (s.pc.toNat + 65534) % 65536 ∧ KeepsAllBut (· = .pc) s t) ∧
      (s.halted = false → Fetches s (.ldVxK x) → step s = .next s))

/-- R140, R141, R142. No TICK emits an event: one that completes gives the output `none`, so writing ST emits no tone_end,
whatever the old and new values. -/
def Obligations.TimerMoves : Prop :=
  ∀ (x : Nibble) (s : State),
    HasWord (.ldVxDt x) (0xF007 + 256 * x.toNat) ∧ HasWord (.ldDtVx x) (0xF015 + 256 * x.toNat) ∧ HasWord (.ldStVx x) (0xF018 + 256 * x.toNat) ∧
    (Completes (exec (.ldVxDt x) s) fun t => t.reg x = s.dt ∧ KeepsAllBut (· = .reg x) s t) ∧
    (Completes (exec (.ldDtVx x) s) fun t => t.dt = s.reg x ∧ KeepsAllBut (· = .delay) s t) ∧
    (Completes (exec (.ldStVx x) s) fun t => t.st = s.reg x ∧ KeepsAllBut (· = .sound) s t) ∧
    (∀ (rest t : State) (r : Byte), tickWith r s = .next t → operate rest (.tick r) s = .next (t, .none)) ∧
    (s.halted = false → Fetches s (.ldStVx x) → ∀ (rest : State) (r : Byte),
      ∃ t, operate rest (.tick r) s = .next (t, .none) ∧ t.st = s.reg x ∧ KeepsAllBut (fun p => p = .sound ∨ p = .pc) s t)

/-- R184, R153: each timer counts down to 0 and stops there, and tone_end is exactly the step of ST from 1. -/
def Obligations.AdvanceTimersCountsDown : Prop :=
  ∀ rest s : State, s.halted = false → ∃ t event, operate rest .advanceTimers s = .next (t, .toneEnd event) ∧
    t.dt.toNat = s.dt.toNat - 1 ∧ t.st.toNat = s.st.toNat - 1 ∧ (event = true ↔ s.st.toNat = 1) ∧
    KeepsAllBut (fun p => p = .delay ∨ p = .sound) s t

/-! ## Host operations -/

/-- R154 -/
def Obligations.SetKeyWritesOneKey : Prop :=
  ∀ (rest s : State) (k : Fin 16) (pressed : Bool), s.halted = false →
    ∃ t, operate rest (.setKey k pressed) s = .next (t, .none) ∧ t.key[k] = pressed ∧ KeepsAllBut (· = .key k) s t

/-- LOAD_PROGRAM is a plain copy from 0x200 up, at any point (the spec's D17, assumption log 14). -/
def Obligations.LoadProgramCopiesImage : Prop :=
  ∀ (rest s : State) (image : List Byte), s.halted = false → s.mem.wf → image.length ≤ 3584 →
    ∃ t, operate rest (.loadProgram image) s = .next (t, .none) ∧
      (∀ k (h : k < image.length), t.mem.readByte (0x200 + k) = image[k]) ∧
      KeepsAllBut (fun p => ∃ k < image.length, p = .byte (0x200 + k)) s t

/-- Calls against the host's contract have no transition (the spec's D15, assumption log 15). -/
def Obligations.ContractViolationsRefused : Prop :=
  ∀ (rest s : State), s.halted = false →
    (∀ image : List Byte, image.length > 3584 → operate rest (.loadProgram image) s = .refused .imageTooLarge) ∧
    (∀ k pressed, k > 15 → operate rest (.setKey k pressed) s = .refused .keyIndexNotAKey)

/-- The boot sequence: after INITIALIZE and LOAD_PROGRAM the machine fetches the image's first word, high byte first. -/
def Obligations.BootFetchesFirstWord : Prop :=
  ∀ (rest s : State) (font : Vector Byte 80) (b0 b1 : Byte) (image : List Byte), image.length ≤ 3582 →
    ∃ t, operateAll [(rest, .create font), (rest, .loadProgram (b0 :: b1 :: image))] s = .next (t, [.none, .none]) ∧
      t.halted = false ∧ t.pc = 0x200 ∧ (wordAtPc t).toNat = b0.toNat * 256 + b1.toNat ∧
      ∀ i, HasWord i (b0.toNat * 256 + b1.toNat) → step t = exec i { t with pc := 0x202 }

/-- A fatal leaves HALTED and its code in CAUSE (R173), whatever the rest of the halted state is; then only INITIALIZE and RESET
have a transition that changes anything (R162, R183). The halted rendering is the spec's own (its D2, D3, D14, D21,
assumption log 4, 5, 21). -/
def Obligations.FatalHaltsUntilReset : Prop :=
  ∀ (rest rest' s : State) (r : Byte) (f : Fault), tickWith r s = .fault f →
    ∃ h, operate rest (.tick r) s = .next (h, .fatal f) ∧ h.halted = true ∧ h.cause = f.code ∧ h.cause ≠ 0 ∧
      (f = .stackOverflow → h.cause = 1) ∧ (f = .stackUnderflow → h.cause = 2) ∧ (f = .illegalInstruction → h.cause = 3) ∧
      (f = .fetchOutOfBounds → h.cause = 4) ∧ (f = .memoryOutOfBounds → h.cause = 5) ∧ (f = .keyIndexOutOfRange → h.cause = 6) ∧
      (∀ r', operate rest' (.tick r') h = .refused .machineHalted) ∧
      operate rest' .advanceTimers h = .refused .machineHalted ∧
      (∀ k pressed, operate rest' (.setKey k pressed) h = .refused .machineHalted) ∧
      (∀ image, operate rest' (.loadProgram image) h = .refused .machineHalted) ∧
      (∀ font, ∃ u, operate rest' (.reset font) h = .next (u, .none) ∧ operate rest' (.create font) h = .next (u, .none) ∧
        u.halted = false ∧ u.cause = 0 ∧ u.pc = 0x200)

/-- The read operations answer and change nothing: READ_FRAMEBUFFER gives the pixels, READ_STATE the outputs of R150. The test
port shows every field of R10 (R157); that it is an observation beside the operations, since R26 gives MEM and KEY no read port,
is the model's choice (assumption log 22). That the reads answer on a halted machine too, where only HALTED and CAUSE have
defined values, is the spec's own D14 (R162, log 22). -/
def Obligations.ReadsChangeNothing : Prop :=
  ∀ rest s : State,
    (∃ g, operate rest .readFramebuffer s = .next (s, .framebuffer g) ∧ ∀ r c, pixelAt g r c = pixelAt s.fb r c) ∧
    (∃ v, operate rest .readState s = .next (s, .view v) ∧ v = (testPort s).toStateView) ∧
    (testPort s).dt = s.dt ∧ (testPort s).st = s.st ∧ (testPort s).v = s.v ∧ (testPort s).i = s.i ∧ (testPort s).pc = s.pc ∧
    (testPort s).sp = s.sp ∧ (testPort s).stack = s.stack ∧ (∀ a, (testPort s).mem.readByte a = s.mem.readByte a) ∧
    (testPort s).key = s.key ∧ (∀ r c, pixelAt (testPort s).fb r c = pixelAt s.fb r c) ∧
    (testPort s).halted = s.halted ∧ (testPort s).cause = s.cause

/-- Every host operation keeps the invariant, where the unspecified remainder of a halted state meets it. -/
def Obligations.HostOperationsKeepInv : Prop :=
  ∀ (rest s t : State) (op : HostOp) (out : HostOutput), Inv rest → Inv s → operate rest op s = .next (t, out) → Inv t

/-! ## Rules over all instructions -/

/-- Which instructions change which state: the table of R26, with the rule of each piece of state. -/
def Obligations.WhoChangesWhat : Prop :=
  ∀ (i : Instr) (s t : State), exec i s = .next t →
    (t.i ≠ s.i → (∃ nnn, i = .ldI nnn) ∨ (∃ x, i = .addI x) ∨ ∃ x, i = .ldF x) ∧
    (t.sp ≠ s.sp → i = .ret ∨ ∃ nnn, i = .call nnn) ∧
    (t.stack ≠ s.stack → ∃ nnn, i = .call nnn) ∧
    (t.dt ≠ s.dt → ∃ x, i = .ldDtVx x) ∧
    (t.st ≠ s.st → ∃ x, i = .ldStVx x) ∧
    t.key = s.key ∧
    (t.fb ≠ s.fb → i = .cls ∨ ∃ x y n, i = .drw x y n) ∧
    (∀ a, t.mem.readByte a ≠ s.mem.readByte a → (∃ x, i = .ldB x) ∨ ∃ x, i = .storeRegs x) ∧
    t.halted = s.halted ∧ t.cause = s.cause ∧
    (t.draws ≠ s.draws → ∃ x nn, i = .rnd x nn)

/-- VF changes only by the six flag-writing instructions, which write 0 or 1, or by an instruction that names VF as Vx. -/
def Obligations.VfChangesOnlyAsFlagOrDestination : Prop :=
  ∀ (i : Instr) (s t : State), exec i s = .next t → t.reg 0xF ≠ s.reg 0xF →
    ((t.reg 0xF = 0 ∨ t.reg 0xF = 1) ∧
      ((∃ x y, i = .addReg x y ∨ i = .subReg x y ∨ i = .shr x y ∨ i = .subnReg x y ∨ i = .shl x y) ∨ ∃ x y n, i = .drw x y n)) ∨
    (∃ nn, i = .ldImm 0xF nn ∨ i = .addImm 0xF nn ∨ i = .rnd 0xF nn) ∨
    (∃ y, i = .ldReg 0xF y ∨ i = .orReg 0xF y ∨ i = .andReg 0xF y ∨ i = .xorReg 0xF y) ∨
    i = .ldVxDt 0xF ∨ i = .ldVxK 0xF

/-- READ_STATE shows the host nothing of MEM, KEY and FB: two states that differ in them alone (and in the model's own count of
draws, log 3) give the same output. THE MODEL'S CHOICE (assumption log 22): the spec's files differ here, and the model takes
READ_STATE's outputs from the list of R150, which R26 agrees with on MEM and KEY, and keeps the test port of R157, which may
observe every field, apart from the operation. That FB is not shown rests on R150's list alone: R26 does give FB a read port,
which is READ_FRAMEBUFFER. -/
def Obligations.ReadStateHidesMemoryAndKeys : Prop :=
  ∀ rest rest' s s' : State,
    KeepsAllBut (fun p => p = .draws ∨ (∃ a, p = .byte a) ∨ (∃ k, p = .key k) ∨ ∃ r c, p = .pixel r c) s s' →
    ∃ v, operate rest .readState s = .next (s, .view v) ∧ operate rest' .readState s' = .next (s', .view v)
end

