-- ==== Sys2Proof/Laws/Decode.lean ====
section
/-! SUPPORT. The fields of a word put together from its fields, for the three encoded forms. -/

namespace Sys2Proof

/-! ## The bits of an encoded word -/

theorem getLsbD_formXY (a x y n : Nibble) (i : Nat) : (formXY a x y n).getLsbD i =
    if i < 4 then n.getLsbD i else if i < 8 then y.getLsbD (i - 4) else if i < 12 then x.getLsbD (i - 8)
    else a.getLsbD (i - 12) := by
  show BitVec.getLsbD (w := 4 + 4 + 4 + 4) (a ++ x ++ y ++ n) i = _
  simp only [BitVec.getLsbD_append]
  grind

theorem getLsbD_formXI (a x : Nibble) (nn : Byte) (i : Nat) : (formXI a x nn).getLsbD i =
    if i < 8 then nn.getLsbD i else if i < 12 then x.getLsbD (i - 8) else a.getLsbD (i - 12) := by
  show BitVec.getLsbD (w := 4 + 4 + 8) (a ++ x ++ nn) i = _
  simp only [BitVec.getLsbD_append]
  grind

theorem getLsbD_formA (a : Nibble) (nnn : Addr12) (i : Nat) : (formA a nnn).getLsbD i =
    if i < 12 then nnn.getLsbD i else a.getLsbD (i - 12) := by
  show BitVec.getLsbD (w := 4 + 12) (a ++ nnn) i = _
  simp only [BitVec.getLsbD_append]

theorem getLsbD_joinBytes (high low : Byte) (i : Nat) : (joinBytes high low).getLsbD i =
    if i < 8 then low.getLsbD i else high.getLsbD (i - 8) := by
  show BitVec.getLsbD (w := 8 + 8) (high ++ low) i = _
  simp only [BitVec.getLsbD_append]

/-! ## Format XY -/

@[simp] theorem fieldF1_formXY (a x y n : Nibble) : fieldF1 (formXY a x y n) = a := by
  apply BitVec.eq_of_getLsbD_eq; intro i hi
  simp only [fieldF1, BitVec.getLsbD_extractLsb', getLsbD_formXY]
  interval_cases i <;> simp

@[simp] theorem fieldX_formXY (a x y n : Nibble) : fieldX (formXY a x y n) = x := by
  apply BitVec.eq_of_getLsbD_eq; intro i hi
  simp only [fieldX, BitVec.getLsbD_extractLsb', getLsbD_formXY]
  interval_cases i <;> simp

@[simp] theorem fieldY_formXY (a x y n : Nibble) : fieldY (formXY a x y n) = y := by
  apply BitVec.eq_of_getLsbD_eq; intro i hi
  simp only [fieldY, BitVec.getLsbD_extractLsb', getLsbD_formXY]
  interval_cases i <;> simp

@[simp] theorem fieldN_formXY (a x y n : Nibble) : fieldN (formXY a x y n) = n := by
  apply BitVec.eq_of_getLsbD_eq; intro i hi
  simp only [fieldN, BitVec.getLsbD_extractLsb', getLsbD_formXY]
  interval_cases i <;> simp

/-! ## Formats XI and X -/

@[simp] theorem fieldF1_formXI (a x : Nibble) (nn : Byte) : fieldF1 (formXI a x nn) = a := by
  apply BitVec.eq_of_getLsbD_eq; intro i hi
  simp only [fieldF1, BitVec.getLsbD_extractLsb', getLsbD_formXI]
  interval_cases i <;> simp

@[simp] theorem fieldX_formXI (a x : Nibble) (nn : Byte) : fieldX (formXI a x nn) = x := by
  apply BitVec.eq_of_getLsbD_eq; intro i hi
  simp only [fieldX, BitVec.getLsbD_extractLsb', getLsbD_formXI]
  interval_cases i <;> simp

@[simp] theorem fieldNN_formXI (a x : Nibble) (nn : Byte) : fieldNN (formXI a x nn) = nn := by
  apply BitVec.eq_of_getLsbD_eq; intro i hi
  simp only [fieldNN, BitVec.getLsbD_extractLsb', getLsbD_formXI]
  interval_cases i <;> simp

/-! ## Format A -/

@[simp] theorem fieldF1_formA (a : Nibble) (nnn : Addr12) : fieldF1 (formA a nnn) = a := by
  apply BitVec.eq_of_getLsbD_eq; intro i hi
  simp only [fieldF1, BitVec.getLsbD_extractLsb', getLsbD_formA]
  interval_cases i <;> simp

@[simp] theorem fieldNNN_formA (a : Nibble) (nnn : Addr12) : fieldNNN (formA a nnn) = nnn := by
  apply BitVec.eq_of_getLsbD_eq; intro i hi
  simp only [fieldNNN, BitVec.getLsbD_extractLsb', getLsbD_formA]
  interval_cases i <;> simp

/-! ## The value of an encoded word -/

theorem toNat_append (a b : Nat) (x : BitVec a) (y : BitVec b) : (x ++ y).toNat = x.toNat * 2 ^ b + y.toNat := by
  rw [BitVec.toNat_append, Nat.shiftLeft_eq, Nat.mul_comm, ← Nat.two_pow_add_eq_or_of_lt y.isLt]

theorem toNat_formA (a : Nibble) (nnn : Addr12) : (formA a nnn).toNat = a.toNat * 4096 + nnn.toNat :=
  toNat_append 4 12 a nnn

theorem toNat_formXI (a x : Nibble) (nn : Byte) :
    (formXI a x nn).toNat = a.toNat * 4096 + x.toNat * 256 + nn.toNat := by
  have h := toNat_append (4 + 4) 8 (a ++ x) nn
  rw [toNat_append 4 4 a x] at h
  calc (formXI a x nn).toNat = _ := h
    _ = _ := by omega

theorem toNat_formXY (a x y n : Nibble) :
    (formXY a x y n).toNat = a.toNat * 4096 + x.toNat * 256 + y.toNat * 16 + n.toNat := by
  have h := toNat_append (4 + 4 + 4) 4 (a ++ x ++ y) n
  rw [toNat_append (4 + 4) 4 (a ++ x) y, toNat_append 4 4 a x] at h
  calc (formXY a x y n).toNat = _ := h
    _ = _ := by omega

theorem toNat_joinBytes (high low : Byte) : (joinBytes high low).toNat = high.toNat * 256 + low.toNat :=
  toNat_append 8 8 high low

/-! ## Bytes of a word -/

/-- A word laid out in memory and read back is the word (spec/20_memory.md R34). -/
theorem joinBytes_wordBytes (w : Word) : ∀ high low, wordBytes w = [high, low] → joinBytes high low = w := by
  intro high low h
  obtain ⟨rfl, rfl⟩ : w.extractLsb' 8 8 = high ∧ w.extractLsb' 0 8 = low := by simpa [wordBytes] using h
  apply BitVec.eq_of_getLsbD_eq
  intro i hi
  simp only [getLsbD_joinBytes, BitVec.getLsbD_extractLsb']
  interval_cases i <;> simp

/-- Every instruction is well formed: its operand types are its fields' widths. -/
theorem wellFormed_all (i : Instr) : i.wellFormed = true := by
  have h4 : ∀ x : Nibble, x.toNat < 16 := fun x => x.isLt
  have h8 : ∀ x : Byte, x.toNat < 256 := fun x => x.isLt
  have h12 : ∀ x : Addr12, x.toNat < 4096 := fun x => x.isLt
  cases i <;> simp [Instr.wellFormed, Instr.operandFields, fieldFits, h4, h8, h12]

end Sys2Proof
end

