-- ==== Sys2Proof/Laws/State.lean ====
section
/-! SUPPORT. One lemma for each field and update: what `setReg`, `skipIf` and a field update leave of the state. -/

namespace Sys2Proof.Machine

/-! ## `setReg` -/

@[simp] theorem setReg_pc (s : State) (x : Nibble) (b : Byte) : (s.setReg x b).pc = s.pc := rfl
@[simp] theorem setReg_mem (s : State) (x : Nibble) (b : Byte) : (s.setReg x b).mem = s.mem := rfl
@[simp] theorem setReg_i (s : State) (x : Nibble) (b : Byte) : (s.setReg x b).i = s.i := rfl
@[simp] theorem setReg_sp (s : State) (x : Nibble) (b : Byte) : (s.setReg x b).sp = s.sp := rfl
@[simp] theorem setReg_stack (s : State) (x : Nibble) (b : Byte) : (s.setReg x b).stack = s.stack := rfl
@[simp] theorem setReg_dt (s : State) (x : Nibble) (b : Byte) : (s.setReg x b).dt = s.dt := rfl
@[simp] theorem setReg_st (s : State) (x : Nibble) (b : Byte) : (s.setReg x b).st = s.st := rfl
@[simp] theorem setReg_key (s : State) (x : Nibble) (b : Byte) : (s.setReg x b).key = s.key := rfl
@[simp] theorem setReg_fb (s : State) (x : Nibble) (b : Byte) : (s.setReg x b).fb = s.fb := rfl
@[simp] theorem setReg_halted (s : State) (x : Nibble) (b : Byte) : (s.setReg x b).halted = s.halted := rfl
@[simp] theorem setReg_cause (s : State) (x : Nibble) (b : Byte) : (s.setReg x b).cause = s.cause := rfl
@[simp] theorem setReg_draws (s : State) (x : Nibble) (b : Byte) : (s.setReg x b).draws = s.draws := rfl

theorem reg_setReg (s : State) (x k : Nibble) (b : Byte) :
    (s.setReg x b).reg k = if k = x then b else s.reg k := by
  simp only [State.reg, State.setReg, Vector.getElem_set, ← BitVec.toNat_inj, eq_comm]

@[simp] theorem reg_setReg_self (s : State) (x : Nibble) (b : Byte) : (s.setReg x b).reg x = b := by
  simp [reg_setReg]

theorem reg_setReg_of_ne (s : State) {x k : Nibble} (b : Byte) (h : k ≠ x) : (s.setReg x b).reg k = s.reg k := by
  simp [reg_setReg, h]

/-! ## Registers under the update of another field -/

@[simp] theorem reg_with_pc (s : State) (a : Word) (k : Nibble) :
    (State.reg { s with pc := a } k) = s.reg k := rfl
@[simp] theorem reg_with_mem (s : State) (a : Memory) (k : Nibble) :
    (State.reg { s with mem := a } k) = s.reg k := rfl
@[simp] theorem reg_with_i (s : State) (a : Word) (k : Nibble) :
    (State.reg { s with i := a } k) = s.reg k := rfl
@[simp] theorem reg_with_sp (s : State) (a : Word) (k : Nibble) :
    (State.reg { s with sp := a } k) = s.reg k := rfl
@[simp] theorem reg_with_stack (s : State) (a : Vector Word 16) (k : Nibble) :
    (State.reg { s with stack := a } k) = s.reg k := rfl
@[simp] theorem reg_with_dt (s : State) (a : Byte) (k : Nibble) :
    (State.reg { s with dt := a } k) = s.reg k := rfl
@[simp] theorem reg_with_st (s : State) (a : Byte) (k : Nibble) :
    (State.reg { s with st := a } k) = s.reg k := rfl
@[simp] theorem reg_with_key (s : State) (a : Vector Bool 16) (k : Nibble) :
    (State.reg { s with key := a } k) = s.reg k := rfl
@[simp] theorem reg_with_fb (s : State) (a : Framebuffer) (k : Nibble) :
    (State.reg { s with fb := a } k) = s.reg k := rfl
@[simp] theorem reg_with_halted (s : State) (a : Bool) (k : Nibble) :
    (State.reg { s with halted := a } k) = s.reg k := rfl
@[simp] theorem reg_with_cause (s : State) (a : BitVec 3) (k : Nibble) :
    (State.reg { s with cause := a } k) = s.reg k := rfl
@[simp] theorem reg_with_draws (s : State) (a : Nat) (k : Nibble) :
    (State.reg { s with draws := a } k) = s.reg k := rfl

/-! ## `skipIf` -/

@[simp] theorem skipIf_mem (c : Bool) (s : State) : (skipIf c s).mem = s.mem := by
  cases c <;> rfl
@[simp] theorem skipIf_i (c : Bool) (s : State) : (skipIf c s).i = s.i := by
  cases c <;> rfl
@[simp] theorem skipIf_sp (c : Bool) (s : State) : (skipIf c s).sp = s.sp := by
  cases c <;> rfl
@[simp] theorem skipIf_stack (c : Bool) (s : State) : (skipIf c s).stack = s.stack := by
  cases c <;> rfl
@[simp] theorem skipIf_dt (c : Bool) (s : State) : (skipIf c s).dt = s.dt := by
  cases c <;> rfl
@[simp] theorem skipIf_st (c : Bool) (s : State) : (skipIf c s).st = s.st := by
  cases c <;> rfl
@[simp] theorem skipIf_key (c : Bool) (s : State) : (skipIf c s).key = s.key := by
  cases c <;> rfl
@[simp] theorem skipIf_fb (c : Bool) (s : State) : (skipIf c s).fb = s.fb := by
  cases c <;> rfl
@[simp] theorem skipIf_halted (c : Bool) (s : State) : (skipIf c s).halted = s.halted := by
  cases c <;> rfl
@[simp] theorem skipIf_cause (c : Bool) (s : State) : (skipIf c s).cause = s.cause := by
  cases c <;> rfl
@[simp] theorem skipIf_draws (c : Bool) (s : State) : (skipIf c s).draws = s.draws := by
  cases c <;> rfl
@[simp] theorem skipIf_v (c : Bool) (s : State) : (skipIf c s).v = s.v := by
  cases c <;> rfl

@[simp] theorem skipIf_reg (c : Bool) (s : State) (k : Nibble) : (skipIf c s).reg k = s.reg k := by
  cases c <;> rfl

@[simp] theorem skipIf_pc (c : Bool) (s : State) : (skipIf c s).pc = if c then s.pc + 2 else s.pc := by
  cases c <;> rfl

/-! ## `writeWithFlag` -/

@[simp] theorem writeWithFlag_pc (s : State) (x : Nibble) (b : Byte) (c : Bool) :
    (writeWithFlag s x b c).pc = s.pc := rfl
@[simp] theorem writeWithFlag_mem (s : State) (x : Nibble) (b : Byte) (c : Bool) :
    (writeWithFlag s x b c).mem = s.mem := rfl
@[simp] theorem writeWithFlag_i (s : State) (x : Nibble) (b : Byte) (c : Bool) :
    (writeWithFlag s x b c).i = s.i := rfl
@[simp] theorem writeWithFlag_sp (s : State) (x : Nibble) (b : Byte) (c : Bool) :
    (writeWithFlag s x b c).sp = s.sp := rfl
@[simp] theorem writeWithFlag_stack (s : State) (x : Nibble) (b : Byte) (c : Bool) :
    (writeWithFlag s x b c).stack = s.stack := rfl
@[simp] theorem writeWithFlag_dt (s : State) (x : Nibble) (b : Byte) (c : Bool) :
    (writeWithFlag s x b c).dt = s.dt := rfl
@[simp] theorem writeWithFlag_st (s : State) (x : Nibble) (b : Byte) (c : Bool) :
    (writeWithFlag s x b c).st = s.st := rfl
@[simp] theorem writeWithFlag_key (s : State) (x : Nibble) (b : Byte) (c : Bool) :
    (writeWithFlag s x b c).key = s.key := rfl
@[simp] theorem writeWithFlag_fb (s : State) (x : Nibble) (b : Byte) (c : Bool) :
    (writeWithFlag s x b c).fb = s.fb := rfl
@[simp] theorem writeWithFlag_halted (s : State) (x : Nibble) (b : Byte) (c : Bool) :
    (writeWithFlag s x b c).halted = s.halted := rfl
@[simp] theorem writeWithFlag_cause (s : State) (x : Nibble) (b : Byte) (c : Bool) :
    (writeWithFlag s x b c).cause = s.cause := rfl
@[simp] theorem writeWithFlag_draws (s : State) (x : Nibble) (b : Byte) (c : Bool) :
    (writeWithFlag s x b c).draws = s.draws := rfl

/-- The flag is written last: VF ends as the flag whatever x is. -/
@[simp] theorem writeWithFlag_reg_flag (s : State) (x : Nibble) (b : Byte) (c : Bool) :
    (writeWithFlag s x b c).reg 15#4 = flagByte c := by
  simp [writeWithFlag]

theorem writeWithFlag_reg (s : State) (x k : Nibble) (b : Byte) (c : Bool) (h : k ≠ 15#4) :
    (writeWithFlag s x b c).reg k = if k = x then b else s.reg k := by
  have h' : k ≠ 0xF := h
  rw [writeWithFlag, reg_setReg_of_ne _ _ h', reg_setReg]

/-! ## Addresses -/

@[simp] theorem indexed_eq (s : State) (k : Nat) : indexed s k = s.i.toNat + k := rfl

/-! ## Reset -/

/-- Above the font table every byte is zero after reset. -/
theorem initial_of_ge {a : Nat} (h : 80 ≤ a) : Memory.initial a = 0 := by
  rw [Memory.initial, List.getElem?_eq_none (by simpa using h)]
  rfl

@[simp] theorem reset_reg (x : Nibble) : State.reset.reg x = 0 := by
  simp [State.reset, State.reg]

end Sys2Proof.Machine
end

