-- ==== Sys2Proof/Laws/Memory.lean ====
section
/-! SUPPORT. The laws of memory: a read after a write, the canonical form, and what loading and storing bytes can do. -/

namespace Sys2Proof.Machine

/-- A read after a write gives the byte written at its address and the old byte elsewhere. -/
theorem Memory.readByte_writeByte (m : Memory) (a : Nat) (b : Byte) (c : Nat) (hm : m.wf) :
    (m.writeByte a b).readByte c = if c = a then b else m.readByte c := by
  induction m with
  | nil => by_cases hb : b = Memory.initial a <;> by_cases hc : c = a <;>
      simp_all [Memory.writeByte, Memory.readByte, eq_comm]
  | cons e rest ih =>
    obtain ⟨k, d⟩ := e
    obtain ⟨hp, he⟩ := hm
    have hlt : ∀ x ∈ rest, k < x.1 := (List.pairwise_cons.mp hp).1
    have ih := ih ⟨(List.pairwise_cons.mp hp).2, fun x hx => he x (List.mem_cons_of_mem _ hx)⟩
    have below : ∀ (l : Memory) (n : Nat), (∀ x ∈ l, n < x.1) → l.readByte n = Memory.initial n := by
      intro l n h
      induction l with
      | nil => rfl
      | cons y ys ihl =>
        rw [Memory.readByte, if_neg (by have := h y (by simp); omega)]
        exact ihl fun x hx => h x (by simp [hx])
    have hbelow : a < k → Memory.readByte ((k, d) :: rest) a = Memory.initial a := fun h =>
      below _ _ fun x hx => by
        rcases List.mem_cons.mp hx with rfl | hx
        · exact h
        · exact lt_trans h (hlt x hx)
    unfold Memory.writeByte
    split
    · rename_i hak
      split
      · rename_i hb
        split
        · subst c; rw [hbelow hak, hb]
        · rfl
      · simp only [Memory.readByte, eq_comm (a := a)]
    · split
      · rename_i hak
        subst a
        split
        · rename_i hb
          by_cases hc : c = k
          · subst c; rw [below rest k hlt]; simp [hb]
          · simp [Memory.readByte, hc, Ne.symm hc]
        · by_cases hc : c = k <;> simp [Memory.readByte, hc, eq_comm (a := k)]
      · rename_i h1 h2
        simp only [Memory.readByte, ih]
        by_cases hk : k = c
        · subst c; simp [Ne.symm h2]
        · simp [hk]

theorem Memory.mem_writeByte {m : Memory} {a : Nat} {b : Byte} {e : Host.Cell} (h : e ∈ m.writeByte a b) :
    e ∈ m ∨ (e = (a, b) ∧ b ≠ Memory.initial a) := by
  induction m with
  | nil => by_cases hb : b = Memory.initial a <;> simp_all [Memory.writeByte]
  | cons y ys ih =>
    obtain ⟨k, d⟩ := y
    unfold Memory.writeByte at h
    split at h
    · split at h <;> simp_all; tauto
    · split at h
      · split at h <;> simp_all; tauto
      · rcases List.mem_cons.mp h with rfl | h
        · simp
        · rcases ih h with h | h
          · simp [h]
          · exact .inr h

/-- A write inside the 4096 bytes keeps the canonical form. -/
theorem Memory.writeByte_wf (m : Memory) (a : Nat) (b : Byte) (hm : m.wf) (ha : a < Config.memBytes) :
    (m.writeByte a b).wf := by
  refine ⟨?_, fun e he => ?_⟩
  · obtain ⟨hp, -⟩ := hm
    induction m with
    | nil => by_cases hb : b = Memory.initial a <;> simp [Memory.writeByte, hb]
    | cons y ys ih =>
      obtain ⟨k, d⟩ := y
      have hk := (List.pairwise_cons.mp hp).1
      have hys := (List.pairwise_cons.mp hp).2
      unfold Memory.writeByte
      split
      · split
        · exact hp
        · exact List.pairwise_cons.mpr ⟨fun x hx => by
            rcases List.mem_cons.mp hx with rfl | hx
            · assumption
            · exact lt_trans (by assumption) (hk x hx), hp⟩
      · split
        · split
          · exact hys
          · rename_i h _; subst h; exact List.pairwise_cons.mpr ⟨hk, hys⟩
        · refine List.pairwise_cons.mpr ⟨fun x hx => ?_, ih hys⟩
          rcases Memory.mem_writeByte hx with hx | ⟨rfl, -⟩
          · exact hk x hx
          · simp only; omega
  · rcases Memory.mem_writeByte he with he | ⟨rfl, hb⟩
    · exact hm.2 e he
    · exact ⟨ha, hb⟩

/-- Storing a list of bytes inside the 4096 bytes keeps the canonical form. -/
theorem Memory.writeBytes_wf (bs : List Byte) (a : Nat) (m : Memory) (hm : m.wf)
    (ha : a + bs.length ≤ Config.memBytes) : (Memory.writeBytes bs a m).wf := by
  induction bs generalizing a m with
  | nil => exact hm
  | cons b bs ih =>
    simp only [List.length_cons] at ha
    exact ih _ _ (Memory.writeByte_wf m a b hm (by omega)) (by omega)

/-- What a list of bytes stored from `a` up reads back as. -/
theorem Memory.readByte_writeBytes (bs : List Byte) (a : Nat) (m : Memory) (c : Nat) (hm : m.wf)
    (ha : a + bs.length ≤ Config.memBytes) :
    (Memory.writeBytes bs a m).readByte c = if h : a ≤ c ∧ c < a + bs.length then bs[c - a]'(by omega) else m.readByte c := by
  induction bs generalizing a m with
  | nil => simp [Memory.writeBytes]
  | cons b bs ih =>
    simp only [List.length_cons] at ha
    rw [Memory.writeBytes, ih (a + 1) _ (Memory.writeByte_wf m a b hm (by omega)) (by omega),
      Memory.readByte_writeByte m a b c hm]
    simp only [List.length_cons]
    by_cases h1 : c = a
    · subst c; simp
    · by_cases h2 : a + 1 ≤ c ∧ c < a + 1 + bs.length
      · have h3 : c - a = (c - (a + 1)) + 1 := by omega
        rw [dif_pos h2, dif_pos (by omega)]
        simp [h3]
      · rw [dif_neg h2, if_neg h1, dif_neg (by omega)]

/-- Two canonical memories that read alike are equal. -/
theorem Memory.ext_of_wf {m n : Memory} (hm : m.wf) (hn : n.wf) (h : ∀ a, m.readByte a = n.readByte a) : m = n := by
  have key : ∀ {l : Memory}, l.wf → ∀ e : Host.Cell, e ∈ l ↔ (l.readByte e.1 = e.2 ∧ e.2 ≠ Memory.initial e.1) := by
    intro l
    induction l with
    | nil => intro _ e; simp [Memory.readByte]; exact fun h => h.symm
    | cons y ys ih =>
      intro hl e
      obtain ⟨k, d⟩ := y
      obtain ⟨c, b⟩ := e
      have hk := (List.pairwise_cons.mp hl.1).1
      have ih := ih ⟨(List.pairwise_cons.mp hl.1).2, fun x hx => hl.2 x (List.mem_cons_of_mem _ hx)⟩ (c, b)
      have hd := (hl.2 (k, d) (by simp)).2
      by_cases hc : k = c
      · subst hc
        have : (k, b) ∉ ys := fun hmem => lt_irrefl k (hk (k, b) hmem)
        simp [Memory.readByte, this]
        constructor
        · rintro rfl; exact ⟨rfl, hd⟩
        · exact fun h => h.1.symm
      · simp only [List.mem_cons, Prod.mk.injEq, Ne.symm hc, false_and, false_or, Memory.readByte, if_neg hc]
        exact ih
  have sorted : ∀ {l : Memory}, l.wf → l.Pairwise fun c d => c.1 < d.1 := fun h => h.1
  refine List.Perm.eq_of_pairwise (le := fun c d : Host.Cell => c.1 < d.1)
    (fun a b _ _ h1 h2 => absurd (lt_trans h1 h2) (lt_irrefl _)) (sorted hm) (sorted hn) ?_
  have nodup : ∀ {l : Memory}, l.wf → l.Nodup := fun h =>
    List.Pairwise.imp (fun hlt heq => by rw [heq] at hlt; exact lt_irrefl _ hlt) h.1
  exact (List.perm_ext_iff_of_nodup (nodup hm) (nodup hn)).mpr fun e => by rw [key hm e, key hn e, h]

/-! ## Loading and storing -/

/-- Loading inside the 4096 bytes gives the bytes there, in order. -/
theorem loadBytes_inside (s : State) (n a : Nat) (h : n = 0 ∨ a + n ≤ Config.memBytes) :
    loadBytes s n a = .next ((List.range n).map fun k => s.mem.readByte (a + k)) := by
  induction n generalizing a with
  | zero => rfl
  | succ n ih =>
    have h : a + n + 1 ≤ Config.memBytes := by omega
    rw [loadBytes, memRead, if_pos (by omega), ih (a + 1) (by omega), List.range_succ_eq_map]
    simp only [andThen, List.map_cons, List.map_map, Nat.add_zero]
    congr 3
    funext k
    simp only [Function.comp_apply, Nat.succ_eq_add_one]
    congr 1
    omega

/-- Loading past the 4096 bytes is fatal. -/
theorem loadBytes_outside (s : State) (n a : Nat) (hn : n ≠ 0) (h : a + n > Config.memBytes) :
    loadBytes s n a = .fault .memoryOutOfBounds := by
  induction n generalizing a with
  | zero => exact absurd rfl hn
  | succ n ih =>
    unfold loadBytes memRead
    split
    · by_cases h0 : n = 0
      · omega
      · simp only [andThen]; rw [ih (a + 1) h0 (by omega)]
    · rfl

/-- Storing inside the 4096 bytes writes the bytes and changes nothing else. -/
theorem storeBytes_inside (bs : List Byte) (a : Nat) (s : State) (h : bs = [] ∨ a + bs.length ≤ Config.memBytes) :
    storeBytes bs a s = .next { s with mem := Memory.writeBytes bs a s.mem } := by
  induction bs generalizing a s with
  | nil => rfl
  | cons b bs ih =>
    have h : a + bs.length + 1 ≤ Config.memBytes := by simpa [Nat.add_assoc] using h
    rw [storeBytes, memWrite, if_pos (by omega)]
    simp only [andThen]
    rw [ih (a + 1) _ (.inr (by omega))]
    rfl

/-- Storing past the 4096 bytes is fatal. -/
theorem storeBytes_outside (bs : List Byte) (a : Nat) (s : State) (hb : bs ≠ [])
    (h : a + bs.length > Config.memBytes) : storeBytes bs a s = .fault .memoryOutOfBounds := by
  induction bs generalizing a s with
  | nil => exact absurd rfl hb
  | cons b bs ih =>
    simp only [List.length_cons] at h
    unfold storeBytes memWrite
    split
    · by_cases h0 : bs = []
      · subst h0; simp at h; omega
      · simp only [andThen]; exact ih _ _ h0 (by omega)
    · rfl

end Sys2Proof.Machine
end

