-- ==== Sys2Proof/Laws/Ops.lean ====
section
/-! SUPPORT. One lemma for each shared operation: everything it can do. -/

namespace Sys2Proof.Machine

/-! ## Outcomes -/

@[simp] theorem andThen_next {α β : Type} (a : α) (k : α → Res β) : andThen (.next a) k = k a := rfl

@[simp] theorem andThen_fault {α β : Type} (f : Fault) (k : α → Res β) : andThen (.fault f) k = .fault f := rfl

@[simp] theorem andThen_refused {α β : Type} (r : Refusal) (k : α → Res β) : andThen (.refused r) k = .refused r := rfl

theorem andThen_eq_next {α β : Type} {r : Res α} {k : α → Res β} {b : β} :
    andThen r k = .next b ↔ ∃ a, r = .next a ∧ k a = .next b := by
  cases r <;> simp [andThen]

theorem andThen_eq_fault {α β : Type} {r : Res α} {k : α → Res β} {f : Fault} :
    andThen r k = .fault f ↔ r = .fault f ∨ ∃ a, r = .next a ∧ k a = .fault f := by
  cases r <;> simp [andThen]

/-! ## Fetch, the stack, the keys -/

theorem fetch_eq_next {s : State} {p : Word × State} : fetch s = .next p ↔
    s.pc.toNat ≤ 4094 ∧
      p = (joinBytes (s.mem.readByte s.pc.toNat) (s.mem.readByte (s.pc.toNat + 1)), { s with pc := s.pc + 2 }) := by
  unfold fetch
  split <;> simp_all [raise, eq_comm]

theorem fetch_eq_fault {s : State} {f : Fault} : fetch s = .fault f ↔
    s.pc.toNat > 4094 ∧ f = .fetchOutOfBounds := by
  unfold fetch
  split <;> simp_all [raise, eq_comm]

theorem push_eq_next {w : Word} {s t : State} : push w s = .next t ↔
    ∃ h : s.sp.toNat < 16, t = { s with stack := s.stack.set s.sp.toNat w h, sp := s.sp + 1 } := by
  unfold push
  split <;> simp_all [raise, eq_comm]

theorem push_eq_fault {w : Word} {s : State} {f : Fault} : push w s = .fault f ↔
    s.sp.toNat ≥ 16 ∧ f = .stackOverflow := by
  unfold push
  split <;> simp_all [raise, eq_comm]

theorem pop_eq_next {s : State} {p : Word × State} : pop s = .next p ↔
    s.sp ≠ 0 ∧ ∃ h : (s.sp - 1).toNat < 16, p = (s.stack[(s.sp - 1).toNat]'h, { s with sp := s.sp - 1 }) := by
  by_cases h0 : s.sp = 0
  · simp [pop, raise, h0]
  · by_cases h : (s.sp - 1).toNat < 16
    · rw [pop, if_neg h0, dif_pos h]
      constructor
      · rintro ⟨⟩; exact ⟨h0, h, rfl⟩
      · rintro ⟨-, -, rfl⟩; rfl
    · rw [pop, if_neg h0, dif_neg h]
      constructor
      · rintro ⟨⟩
      · rintro ⟨-, h', -⟩; exact absurd h' h

theorem pop_eq_fault {s : State} {f : Fault} : pop s = .fault f ↔ s.sp = 0 ∧ f = .stackUnderflow := by
  by_cases h0 : s.sp = 0
  · rw [pop, if_pos h0]
    constructor
    · rintro ⟨⟩; exact ⟨h0, rfl⟩
    · rintro ⟨-, rfl⟩; rfl
  · by_cases h : (s.sp - 1).toNat < 16
    · rw [pop, if_neg h0, dif_pos h]; exact ⟨by rintro ⟨⟩, fun h' => absurd h'.1 h0⟩
    · rw [pop, if_neg h0, dif_neg h]; exact ⟨by rintro ⟨⟩, fun h' => absurd h'.1 h0⟩

theorem keyPressed_eq_next {s : State} {k : Byte} {b : Bool} : keyPressed s k = .next b ↔
    ∃ h : k.toNat < 16, b = s.key[k.toNat]'h := by
  unfold keyPressed
  split <;> simp_all [raise, eq_comm]

theorem keyPressed_eq_fault {s : State} {k : Byte} {f : Fault} : keyPressed s k = .fault f ↔
    k.toNat ≥ 16 ∧ f = .keyIndexOutOfRange := by
  unfold keyPressed
  split <;> simp_all [raise, eq_comm]

/-- The scan from low to high: the key it finds is pressed and none below it is. -/
theorem firstPressed_eq_some {s : State} {k : Nat} : firstPressed s = some k ↔
    ∃ h : k < 16, s.key[k] = true ∧ ∀ j (hj : j < k), s.key[j]'(by omega) = false := by
  simp [firstPressed, List.findIdx?_eq_some_iff_getElem]

theorem firstPressed_eq_none {s : State} : firstPressed s = none ↔ ∀ k : Fin 16, s.key[k] = false := by
  simp only [firstPressed, List.findIdx?_eq_none_iff, Vector.mem_toList_iff]
  constructor
  · intro h k; exact h _ (Vector.getElem_mem _)
  · intro h x hx
    obtain ⟨i, hi, rfl⟩ := Vector.getElem_of_mem hx
    exact h ⟨i, hi⟩

/-! ## Lists of registers -/

theorem firstRegs_length (s : State) (x : Nibble) : (firstRegs s x).length = x.toNat := by
  have := x.isLt
  simp [firstRegs]
  omega

theorem firstRegs_getElem (s : State) (x : Nibble) (k : Nat) (h : k < (firstRegs s x).length) :
    (firstRegs s x)[k] = s.reg (BitVec.ofNat 4 k) := by
  have h1 := firstRegs_length s x
  have h2 : k % 16 = k := Nat.mod_eq_of_lt (by omega)
  simp [firstRegs, State.reg, h2]

/-- Only the registers from `k` on, one for each byte, are written. -/
theorem writeRegs_reg (bs : List Byte) (k : Nat) (s : State) (hk : k + bs.length ≤ 16) (r : Nibble) :
    (writeRegs bs k s).reg r =
      if h : k ≤ r.toNat ∧ r.toNat < k + bs.length then bs[r.toNat - k]'(by omega) else s.reg r := by
  induction bs generalizing k s with
  | nil => rw [dif_neg (by simp)]; rfl
  | cons b bs ih =>
    simp only [List.length_cons] at hk ⊢
    rw [writeRegs, ih (k + 1) _ (by omega), reg_setReg]
    have hr : r = BitVec.ofNat 4 k ↔ r.toNat = k := by
      rw [← BitVec.toNat_inj, BitVec.toNat_ofNat, Nat.mod_eq_of_lt (by omega : k < 2 ^ 4)]
    by_cases h1 : r.toNat = k
    · rw [dif_neg (by omega), if_pos (hr.mpr h1), dif_pos (by omega)]
      simp [h1]
    · rw [if_neg (fun h => h1 (hr.mp h))]
      by_cases h2 : k + 1 ≤ r.toNat ∧ r.toNat < k + 1 + bs.length
      · have h3 : r.toNat - k = (r.toNat - (k + 1)) + 1 := by omega
        rw [dif_pos h2, dif_pos (by omega)]
        simp [h3]
      · rw [dif_neg h2, dif_neg (by omega)]

/-- Nothing but registers is written. -/
theorem writeRegs_others (bs : List Byte) (k : Nat) (s : State) :
    writeRegs bs k s = { s with v := (writeRegs bs k s).v } := by
  induction bs generalizing k s with
  | nil => rfl
  | cons b bs ih => rw [writeRegs]; exact ih (k + 1) (s.setReg (BitVec.ofNat 4 k) b)

/-! ## The tick -/

/-- A tick whose word decodes runs the instruction on the state after fetch. -/
theorem tickBody_of_decode (run : Instr → State → Res State) {s : State} {i : Instr} (hh : s.halted = false)
    (hpc : s.pc.toNat ≤ 4094)
    (hd : decodeWord (joinBytes (s.mem.readByte s.pc.toNat) (s.mem.readByte (s.pc.toNat + 1))) = .ok i) :
    tickBody run s = run i { s with pc := s.pc + 2 } := by
  simp [tickBody, hh, fetch, hpc, hd]

/-- What a tick that completes has done: fetched, decoded, and run the instruction. -/
theorem tickBody_eq_next {run : Instr → State → Res State} {s t : State} (h : tickBody run s = .next t) :
    s.halted = false ∧ s.pc.toNat ≤ 4094 ∧
      ∃ i, decodeWord (joinBytes (s.mem.readByte s.pc.toNat) (s.mem.readByte (s.pc.toNat + 1))) = .ok i ∧
        run i { s with pc := s.pc + 2 } = .next t := by
  unfold tickBody at h
  split at h
  · cases h
  · obtain ⟨p, hp, h⟩ := andThen_eq_next.mp h
    obtain ⟨hpc, rfl⟩ := fetch_eq_next.mp hp
    split at h
    · rename_i hh _ _ i hd; exact ⟨by simpa using hh, hpc, i, hd, h⟩
    · cases h

end Sys2Proof.Machine
end

