-- ==== Sys2Proof/Laws/Display.lean ====
section
/-! SUPPORT. What the sprite engine does to each pixel and to the hit flag. -/

namespace Sys2Proof.Machine

theorem pixelAt_togglePixel (fb : Framebuffer) (r r' : Fin 32) (c c' : Fin 64) :
    pixelAt (togglePixel fb r c) r' c' = (pixelAt fb r' c' != decide (r' = r ∧ c' = c)) := by
  have hr : (r : Nat) = r' ↔ r' = r := by rw [eq_comm, Fin.val_inj]
  have hc : (c : Nat) = c' ↔ c' = c := by rw [eq_comm, Fin.val_inj]
  simp only [pixelAt, togglePixel, Fin.getElem_fin, Vector.getElem_set, hr]
  by_cases h1 : r' = r
  · subst h1
    by_cases h2 : c' = c
    · subst h2; simp
    · have h3 : ¬ (c : Nat) = c' := fun h => h2 (hc.mp h)
      simp [h2, h3]
  · simp [h1]

@[simp] theorem pixelAt_clearedFb (r : Fin 32) (c : Fin 64) : pixelAt clearedFb r c = false := by
  simp [pixelAt, clearedFb]

/-- Framebuffers that agree on every pixel are equal. -/
theorem fb_ext {f g : Framebuffer} (h : ∀ r c, pixelAt f r c = pixelAt g r c) : f = g := by
  apply Vector.ext
  intro r hr
  apply Vector.ext
  intro c hc
  exact h ⟨r, hr⟩ ⟨c, hc⟩

end Sys2Proof.Machine
end

