-- ==== Sys2Proof/Laws/PerInstr.lean ====
section
/-! SUPPORT. Statements made for each instruction: its encoded word selects its own row of the opcode map
(spec/30_encoding.md R55). -/

namespace Sys2Proof.Laws.RowMatch

/-- The encoded word, under the mask of the instruction's row, is the row's code. -/
def Statement (i : Instr) : Prop :=
  ∃ row, opcodeMap[i.rowNumber]? = some row ∧ encode i &&& row.mask = row.code

/-- Format A under the mask of its opcode. -/
theorem formA_mask (a : Nibble) (nnn : Addr12) : formA a nnn &&& 0xF000 = formA a 0 := by
  apply BitVec.eq_of_getLsbD_eq; intro i hi
  simp only [BitVec.getLsbD_and, getLsbD_formA]
  interval_cases i <;> simp

/-- Format XI under the mask of its opcode. -/
theorem formXI_mask (a x : Nibble) (nn : Byte) : formXI a x nn &&& 0xF000 = formXI a 0 0 := by
  apply BitVec.eq_of_getLsbD_eq; intro i hi
  simp only [BitVec.getLsbD_and, getLsbD_formXI]
  interval_cases i <;> simp

/-- Format X under the mask of its opcode and sub-opcode. -/
theorem formX_mask (a x : Nibble) (nn : Byte) : formXI a x nn &&& 0xF0FF = formXI a 0 nn := by
  apply BitVec.eq_of_getLsbD_eq; intro i hi
  simp only [BitVec.getLsbD_and, getLsbD_formXI]
  interval_cases i <;> simp

/-- Format XY under the mask of its opcode and sub-opcode. -/
theorem formXY_mask (a x y n : Nibble) : formXY a x y n &&& 0xF00F = formXY a 0 0 n := by
  apply BitVec.eq_of_getLsbD_eq; intro i hi
  simp only [BitVec.getLsbD_and, getLsbD_formXY]
  interval_cases i <;> simp

/-- Format XYN under the mask of its opcode. -/
theorem formXYN_mask (a x y n : Nibble) : formXY a x y n &&& 0xF000 = formXY a 0 0 0 := by
  apply BitVec.eq_of_getLsbD_eq; intro i hi
  simp only [BitVec.getLsbD_and, getLsbD_formXY]
  interval_cases i <;> simp

theorem nop : Statement .nop :=
  ⟨_, rfl, by decide⟩
theorem cls : Statement .cls :=
  ⟨_, rfl, by decide⟩
theorem ret : Statement .ret :=
  ⟨_, rfl, by decide⟩
theorem jp (nnn : Addr12) : Statement (.jp nnn) :=
  ⟨_, rfl, (formA_mask _ _).trans (by decide)⟩
theorem call (nnn : Addr12) : Statement (.call nnn) :=
  ⟨_, rfl, (formA_mask _ _).trans (by decide)⟩
theorem seImm (x : Nibble) (nn : Byte) : Statement (.seImm x nn) :=
  ⟨_, rfl, (formXI_mask _ _ _).trans (by decide)⟩
theorem sneImm (x : Nibble) (nn : Byte) : Statement (.sneImm x nn) :=
  ⟨_, rfl, (formXI_mask _ _ _).trans (by decide)⟩
theorem seReg (x : Nibble) (y : Nibble) : Statement (.seReg x y) :=
  ⟨_, rfl, (formXY_mask _ _ _ _).trans (by decide)⟩
theorem ldImm (x : Nibble) (nn : Byte) : Statement (.ldImm x nn) :=
  ⟨_, rfl, (formXI_mask _ _ _).trans (by decide)⟩
theorem addImm (x : Nibble) (nn : Byte) : Statement (.addImm x nn) :=
  ⟨_, rfl, (formXI_mask _ _ _).trans (by decide)⟩
theorem ldReg (x : Nibble) (y : Nibble) : Statement (.ldReg x y) :=
  ⟨_, rfl, (formXY_mask _ _ _ _).trans (by decide)⟩
theorem orReg (x : Nibble) (y : Nibble) : Statement (.orReg x y) :=
  ⟨_, rfl, (formXY_mask _ _ _ _).trans (by decide)⟩
theorem andReg (x : Nibble) (y : Nibble) : Statement (.andReg x y) :=
  ⟨_, rfl, (formXY_mask _ _ _ _).trans (by decide)⟩
theorem xorReg (x : Nibble) (y : Nibble) : Statement (.xorReg x y) :=
  ⟨_, rfl, (formXY_mask _ _ _ _).trans (by decide)⟩
theorem addReg (x : Nibble) (y : Nibble) : Statement (.addReg x y) :=
  ⟨_, rfl, (formXY_mask _ _ _ _).trans (by decide)⟩
theorem subReg (x : Nibble) (y : Nibble) : Statement (.subReg x y) :=
  ⟨_, rfl, (formXY_mask _ _ _ _).trans (by decide)⟩
theorem shr (x : Nibble) (y : Nibble) : Statement (.shr x y) :=
  ⟨_, rfl, (formXY_mask _ _ _ _).trans (by decide)⟩
theorem subnReg (x : Nibble) (y : Nibble) : Statement (.subnReg x y) :=
  ⟨_, rfl, (formXY_mask _ _ _ _).trans (by decide)⟩
theorem shl (x : Nibble) (y : Nibble) : Statement (.shl x y) :=
  ⟨_, rfl, (formXY_mask _ _ _ _).trans (by decide)⟩
theorem sneReg (x : Nibble) (y : Nibble) : Statement (.sneReg x y) :=
  ⟨_, rfl, (formXY_mask _ _ _ _).trans (by decide)⟩
theorem ldI (nnn : Addr12) : Statement (.ldI nnn) :=
  ⟨_, rfl, (formA_mask _ _).trans (by decide)⟩
theorem jpV0 (nnn : Addr12) : Statement (.jpV0 nnn) :=
  ⟨_, rfl, (formA_mask _ _).trans (by decide)⟩
theorem rnd (x : Nibble) (nn : Byte) : Statement (.rnd x nn) :=
  ⟨_, rfl, (formXI_mask _ _ _).trans (by decide)⟩
theorem drw (x : Nibble) (y : Nibble) (n : Nibble) : Statement (.drw x y n) :=
  ⟨_, rfl, (formXYN_mask _ _ _ _).trans (by decide)⟩
theorem skp (x : Nibble) : Statement (.skp x) :=
  ⟨_, rfl, (formX_mask _ _ _).trans (by decide)⟩
theorem sknp (x : Nibble) : Statement (.sknp x) :=
  ⟨_, rfl, (formX_mask _ _ _).trans (by decide)⟩
theorem ldVxDt (x : Nibble) : Statement (.ldVxDt x) :=
  ⟨_, rfl, (formX_mask _ _ _).trans (by decide)⟩
theorem ldVxK (x : Nibble) : Statement (.ldVxK x) :=
  ⟨_, rfl, (formX_mask _ _ _).trans (by decide)⟩
theorem ldDtVx (x : Nibble) : Statement (.ldDtVx x) :=
  ⟨_, rfl, (formX_mask _ _ _).trans (by decide)⟩
theorem ldStVx (x : Nibble) : Statement (.ldStVx x) :=
  ⟨_, rfl, (formX_mask _ _ _).trans (by decide)⟩
theorem addI (x : Nibble) : Statement (.addI x) :=
  ⟨_, rfl, (formX_mask _ _ _).trans (by decide)⟩
theorem ldF (x : Nibble) : Statement (.ldF x) :=
  ⟨_, rfl, (formX_mask _ _ _).trans (by decide)⟩
theorem ldB (x : Nibble) : Statement (.ldB x) :=
  ⟨_, rfl, (formX_mask _ _ _).trans (by decide)⟩
theorem storeRegs (x : Nibble) : Statement (.storeRegs x) :=
  ⟨_, rfl, (formX_mask _ _ _).trans (by decide)⟩
theorem loadRegs (x : Nibble) : Statement (.loadRegs x) :=
  ⟨_, rfl, (formX_mask _ _ _).trans (by decide)⟩

end Sys2Proof.Laws.RowMatch
end

