-- ==== Sys2Proof/Tests/Slice0.lean ====
section
/-! SUPPORT. Tests on fixed values, each taken from spec/95_test_vectors.md (the vector is named) or from the rule named.
Every test runs one operation. -/

namespace Sys2Proof.Tests

open Machine

/-- One tick of the word `w` placed at pc. -/
def tick (s : State) (w : Nat) : Res State := step (s.withFetchWord 16 w)

/-- The outcome is a next state that passes the check. -/
def after {α : Type} (r : Res α) (check : α → Bool) : Bool :=
  match r with
  | .next a => check a
  | _ => false

/-- The outcome is this fault. -/
def faults {α : Type} (r : Res α) (f : Fault) : Bool :=
  match r with
  | .fault g => g == f
  | _ => false

/-- The outcome is this refusal. -/
def refuses {α : Type} (r : Res α) (f : Refusal) : Bool :=
  match r with
  | .refused g => g == f
  | _ => false

/-- The reset state with some registers set. -/
def regs (l : List (Nibble × Byte)) : State := l.foldl (fun s p => s.setReg p.1 p.2) State.reset

/-- The state with bytes of memory set. -/
def withBytes (s : State) (a : Nat) (bs : List Byte) : State := { s with mem := s.mem.writeBytes bs a }

/-- The state with keys pressed. -/
def pressing (s : State) (ks : List (Fin 16)) : State := { s with key := ks.foldl (fun v k => v.set k.val true k.isLt) s.key }

/-- The state with pixels lit. -/
def lit (s : State) (ps : List (Fin 32 × Fin 64)) : State :=
  { s with fb := ps.foldl (fun fb p => togglePixel fb p.1 p.2) s.fb }

/-- How many pixels are lit. -/
def litCount (s : State) : Nat := (s.fb.toList.map fun row => row.toList.countP id).sum

/-- Exactly these pixels are lit. -/
def litExactly (s : State) (ps : List (Fin 32 × Fin 64)) : Bool :=
  litCount s == ps.length && ps.all fun p => pixelAt s.fb p.1 p.2

/-- DT, ST and tone_end after ADVANCE_TIMERS. -/
def timersAfter (d t : Byte) : Byte × Byte × Bool :=
  let r := advanceTimers { State.reset with dt := d, st := t }
  (r.1.dt, r.1.st, r.2)

/-- The decoder gives this instruction. -/
def decodesTo (w : Word) (i : Instr) : Bool :=
  match decodeWord w with
  | .ok j => j == i
  | .error _ => false

/-- The decoder rejects the word by this name. -/
def rejectedAs (w : Word) (e : DecodeError) : Bool :=
  match decodeWord w with
  | .ok _ => false
  | .error d => d == e

/-! ## Well-formedness: an ill-formed term for each check -/

/-- R60: nn is 0 to 255, nnn is 0 to 4095, n is 0 to 15. -/
theorem test_fieldFits_refuses : fieldFits 256 8 = false ∧ fieldFits 4096 12 = false ∧ fieldFits 16 4 = false := by decide

theorem test_fieldFits_accepts : fieldFits 255 8 = true ∧ fieldFits 4095 12 = true ∧ fieldFits 15 4 = true := by decide

theorem test_wellFormed : (Instr.drw 15 15 15).wellFormed = true ∧ (Instr.jp 0xFFF).wellFormed = true := by decide

/-- V-HO-1, V-HO-2: the largest image has 3584 bytes. -/
theorem test_imageFits : imageFits 3584 = true ∧ imageFits 3585 = false := by decide

/-- V-HO-4. -/
theorem test_keyIndexFits : keyIndexFits 15 = true ∧ keyIndexFits 16 = false := by decide

/-- Memory out of order, with a repeated address, past the end, or listing what the address reads as, is not canonical. -/
theorem test_memory_wf_refuses :
    ¬ Memory.wf [(0x301, 1), (0x300, 1)] ∧ ¬ Memory.wf [(0x300, 1), (0x300, 2)] ∧ ¬ Memory.wf [(4096, 1)] ∧
      ¬ Memory.wf [(0x300, 0)] ∧ ¬ Memory.wf [(0, 0xF0)] := by decide

theorem test_memory_wf_accepts : Memory.wf [(0, 0x01), (0x300, 1), (4095, 0xFF)] := by decide

/-! ## Decoding: each row's word written out from R55 -/

theorem test_decode_control : decodesTo 0x0000 .nop ∧ decodesTo 0x00E0 .cls ∧ decodesTo 0x00EE .ret ∧
    decodesTo 0x1ABC (.jp 0xABC) ∧ decodesTo 0x2DEF (.call 0xDEF) ∧ decodesTo 0xB3A5 (.jpV0 0x3A5) := by decide

theorem test_decode_skips : decodesTo 0x3A12 (.seImm 0xA 0x12) ∧ decodesTo 0x4B34 (.sneImm 0xB 0x34) ∧
    decodesTo 0x5120 (.seReg 1 2) ∧ decodesTo 0x9CD0 (.sneReg 0xC 0xD) := by decide

theorem test_decode_loads : decodesTo 0x6A05 (.ldImm 0xA 5) ∧ decodesTo 0x7BFE (.addImm 0xB 0xFE) ∧
    decodesTo 0xC30F (.rnd 3 0x0F) ∧ decodesTo 0xA9C1 (.ldI 0x9C1) ∧ decodesTo 0xD12F (.drw 1 2 0xF) := by decide

theorem test_decode_family8 : decodesTo 0x8120 (.ldReg 1 2) ∧ decodesTo 0x8341 (.orReg 3 4) ∧
    decodesTo 0x8562 (.andReg 5 6) ∧ decodesTo 0x8783 (.xorReg 7 8) ∧ decodesTo 0x89A4 (.addReg 9 0xA) ∧
    decodesTo 0x8BC5 (.subReg 0xB 0xC) ∧ decodesTo 0x8AB6 (.shr 0xA 0xB) ∧ decodesTo 0x8DE7 (.subnReg 0xD 0xE) ∧
    decodesTo 0x812E (.shl 1 2) := by decide

theorem test_decode_families_EF : decodesTo 0xE49E (.skp 4) ∧ decodesTo 0xE5A1 (.sknp 5) ∧ decodesTo 0xF207 (.ldVxDt 2) ∧
    decodesTo 0xF10A (.ldVxK 1) ∧ decodesTo 0xF315 (.ldDtVx 3) ∧ decodesTo 0xF518 (.ldStVx 5) ∧
    decodesTo 0xF21E (.addI 2) ∧ decodesTo 0xFA29 (.ldF 0xA) ∧ decodesTo 0xF033 (.ldB 0) ∧
    decodesTo 0xFF55 (.storeRegs 0xF) ∧ decodesTo 0xF365 (.loadRegs 3) := by decide

/-- V-DEC-1 to V-DEC-5. -/
theorem test_decode_illegal_0589 : rejectedAs 0x00E1 .illegal0nnn ∧ rejectedAs 0x0123 .illegal0nnn ∧
    rejectedAs 0x5121 .illegal5xyn ∧ rejectedAs 0x8128 .illegal8xyn ∧ rejectedAs 0x812D .illegal8xyn ∧
    rejectedAs 0x812F .illegal8xyn ∧ rejectedAs 0x9121 .illegal9xyn := by decide

/-- V-DEC-6, V-DEC-7. -/
theorem test_decode_illegal_EF : rejectedAs 0xE19F .illegalExnn ∧ rejectedAs 0xE1A0 .illegalExnn ∧
    rejectedAs 0xE100 .illegalExnn ∧ rejectedAs 0xF100 .illegalFxnn ∧ rejectedAs 0xF106 .illegalFxnn ∧
    rejectedAs 0xF175 .illegalFxnn ∧ rejectedAs 0xF1FF .illegalFxnn := by decide

/-- R34: the byte at the lower address is the high byte, and one byte alone is no instruction (R50). -/
theorem test_decode_bytes : decodeTableWord 16 0x6A05 = some (.ldImm 0xA 5) ∧ decodeTableWord 16 0x8128 = none ∧
    (decode [0x6A, 0x05, 0x77] matches .ok (.ldImm 0xA 5, [0x77])) ∧ (decode [0x6A] matches .error .truncated) := by decide

/-- R55: "Rows do not overlap". -/
theorem test_rows_do_not_overlap : opcodeMap.length = 35 ∧
    opcodeMap.Pairwise fun r q => r.code &&& (r.mask &&& q.mask) ≠ q.code &&& (r.mask &&& q.mask) := by decide

/-! ## Fetch and the tick -/

/-- V-FET-2, V-FET-3. -/
theorem test_fetch_top : after (step { State.reset with pc := 0xFFE }) (fun t => t.pc == 0x1000) ∧
    faults (step { State.reset with pc := 0xFFF }) .fetchOutOfBounds := by decide

/-- V-FET-4: an odd pc is fetched from. -/
theorem test_fetch_odd :
    after (step (withBytes { State.reset with pc := 0x203 } 0x203 [0x60, 0x42])) (fun t => t.reg 0 == 0x42 && t.pc == 0x205) := by
  decide

/-- P12: 8128 is no instruction. -/
theorem test_illegal : faults (tick State.reset 0x8128) .illegalInstruction := by decide

/-- V-HO-6. -/
theorem test_halted : refuses (step { State.reset with halted := true, cause := 2 }) .machineHalted := by decide

/-! ## Control flow -/

/-- V-CF-1. -/
theorem test_nop : after (tick State.reset 0x0000) (fun t => t == { State.reset with pc := 0x202 }) := by decide

/-- V-CF-2. -/
theorem test_jp : after (tick State.reset 0x1ABC) (fun t => t.pc == 0xABC) := by decide

/-- V-CF-5. -/
theorem test_call_last_entry : after (tick { State.reset with sp := 15 } 0x2ABC)
    (fun t => t.stack[15] == 0x202 && t.sp == 16 && t.pc == 0xABC) := by decide

/-- V-CF-6. -/
theorem test_call_overflow : faults (tick { State.reset with sp := 16 } 0x2ABC) .stackOverflow := by decide

/-- V-CF-7: the entry stays in place. -/
theorem test_ret : after (tick { State.reset with sp := 1, stack := State.reset.stack.set 0 0x456 } 0x00EE)
    (fun t => t.pc == 0x456 && t.sp == 0 && t.stack[0] == 0x456) := by decide

/-- V-CF-8. -/
theorem test_ret_underflow : faults (tick State.reset 0x00EE) .stackUnderflow := by decide

/-- V-CF-11: the sum is not reduced to 12 bits. -/
theorem test_jpV0 : after (tick (regs [(0, 0xFF)]) 0xBFFF) (fun t => t.pc == 0x10FE) := by decide

/-! ## Skips -/

/-- V-SK-1, V-SK-2. -/
theorem test_seImm : after (tick (regs [(0, 0x12)]) 0x3012) (fun t => t.pc == 0x204) ∧
    after (tick (regs [(0, 0x13)]) 0x3012) (fun t => t.pc == 0x202) := by decide

/-- V-SK-3, V-SK-4. -/
theorem test_sneImm : after (tick (regs [(0, 0x12)]) 0x4012) (fun t => t.pc == 0x202) ∧
    after (tick (regs [(0, 0x13)]) 0x4012) (fun t => t.pc == 0x204) := by decide

/-- V-SK-5, V-SK-6. -/
theorem test_seReg : after (tick (regs [(1, 7), (2, 7)]) 0x5120) (fun t => t.pc == 0x204) ∧
    after (tick (regs [(1, 7), (2, 8)]) 0x5120) (fun t => t.pc == 0x202) := by decide

/-- V-SK-8, V-SK-9. -/
theorem test_sneReg : after (tick (regs [(1, 7), (2, 8)]) 0x9120) (fun t => t.pc == 0x204) ∧
    after (tick (regs [(1, 7), (2, 7)]) 0x9120) (fun t => t.pc == 0x202) := by decide

/-! ## ALU -/

/-- V-AL-1. -/
theorem test_ldImm : after (tick State.reset 0x6A05) (fun t => t.reg 0xA == 5) := by decide

/-- V-AL-3, V-AL-6: it wraps, and VF is a plain destination. -/
theorem test_addImm : after (tick (regs [(0, 0xFE)]) 0x7005) (fun t => t.reg 0 == 3 && t.reg 0xF == 0) ∧
    after (tick (regs [(0xF, 0xFF)]) 0x7F01) (fun t => t.reg 0xF == 0) := by decide

/-- V-AL-7. -/
theorem test_ldReg : after (tick (regs [(2, 0x5A)]) 0x8120) (fun t => t.reg 1 == 0x5A) := by decide

/-- V-AL-8. -/
theorem test_orReg : after (tick (regs [(1, 0xF0), (2, 0x0F), (0xF, 0x77)]) 0x8121)
    (fun t => t.reg 1 == 0xFF && t.reg 0xF == 0x77) := by decide

/-- V-AL-9. -/
theorem test_andReg : after (tick (regs [(1, 0xF0), (2, 0x3C), (0xF, 0x77)]) 0x8122)
    (fun t => t.reg 1 == 0x30 && t.reg 0xF == 0x77) := by decide

/-- V-AL-10. -/
theorem test_xorReg : after (tick (regs [(1, 0xF0), (2, 0x3C), (0xF, 0x77)]) 0x8123)
    (fun t => t.reg 1 == 0xCC && t.reg 0xF == 0x77) := by decide

/-- The 8xy4 table, rows 0x7F + 0x80 and 0xFF + 0x01, and the row 81F4 whose operand is VF. -/
theorem test_addReg : after (tick (regs [(1, 0x7F), (2, 0x80)]) 0x8124) (fun t => t.reg 1 == 0xFF && t.reg 0xF == 0) ∧
    after (tick (regs [(1, 0xFF), (2, 0x01)]) 0x8124) (fun t => t.reg 1 == 0 && t.reg 0xF == 1) ∧
    after (tick (regs [(1, 0xFF), (0xF, 1)]) 0x81F4) (fun t => t.reg 1 == 0 && t.reg 0xF == 1) := by decide

/-- The row 8F24 whose destination is VF: the flag is written last. -/
theorem test_addReg_vf : after (tick (regs [(0xF, 0xFF), (2, 2)]) 0x8F24) (fun t => t.reg 0xF == 1) ∧
    after (tick (regs [(0xF, 1), (2, 2)]) 0x8F24) (fun t => t.reg 0xF == 0) := by decide

/-- The 8xy5 table, rows 0x03 - 0x05 and 0x07 - 0x07. -/
theorem test_subReg : after (tick (regs [(1, 3), (2, 5)]) 0x8125) (fun t => t.reg 1 == 0xFE && t.reg 0xF == 0) ∧
    after (tick (regs [(1, 7), (2, 7)]) 0x8125) (fun t => t.reg 1 == 0 && t.reg 0xF == 1) := by decide

/-- The rows 8F25 whose destination is VF. -/
theorem test_subReg_vf : after (tick (regs [(0xF, 1), (2, 2)]) 0x8F25) (fun t => t.reg 0xF == 0) ∧
    after (tick (regs [(0xF, 3), (2, 2)]) 0x8F25) (fun t => t.reg 0xF == 1) := by decide

/-- The 8xy6 table and V-DEC-8: Vy plays no part. -/
theorem test_shr : after (tick (regs [(1, 5), (2, 0xFF)]) 0x8126) (fun t => t.reg 1 == 2 && t.reg 2 == 0xFF && t.reg 0xF == 1) ∧
    after (tick (regs [(1, 0xFE)]) 0x8106) (fun t => t.reg 1 == 0x7F && t.reg 0xF == 0) := by decide

/-- The rows 8F06. -/
theorem test_shr_vf : after (tick (regs [(0xF, 3)]) 0x8F06) (fun t => t.reg 0xF == 1) ∧
    after (tick (regs [(0xF, 2)]) 0x8F06) (fun t => t.reg 0xF == 0) := by decide

/-- The 8xy7 table. -/
theorem test_subnReg : after (tick (regs [(1, 3), (2, 5)]) 0x8127) (fun t => t.reg 1 == 2 && t.reg 0xF == 1) ∧
    after (tick (regs [(1, 5), (2, 3)]) 0x8127) (fun t => t.reg 1 == 0xFE && t.reg 0xF == 0) := by decide

/-- The 8xyE table. -/
theorem test_shl : after (tick (regs [(1, 0x81)]) 0x810E) (fun t => t.reg 1 == 2 && t.reg 0xF == 1) ∧
    after (tick (regs [(1, 0x7F)]) 0x810E) (fun t => t.reg 1 == 0xFE && t.reg 0xF == 0) := by decide

/-- The Cxnn table with the byte the host gives, and its rows C30F and C3F0. -/
theorem test_rnd : after (tickWith 0xA7 (State.reset.withFetchWord 16 0xC30F)) (fun t => t.reg 3 == 7) ∧
    after (tickWith 0xFF (State.reset.withFetchWord 16 0xC3F0)) (fun t => t.reg 3 == 0xF0) := by decide

/-- `step` draws its byte by itself: with nn = 0 the result is 0 whatever the byte is (R103). -/
theorem test_rnd_step : ∃ t, tick State.reset 0xC300 = .next t ∧ t.reg 3 = 0 := by
  refine ⟨_, rfl, ?_⟩
  show (Config.rnd 0 &&& 0#8) = 0
  simp

/-! ## Index and memory -/

/-- V-IM-1. -/
theorem test_ldI : after (tick State.reset 0xA300) (fun t => t.i == 0x300) := by decide

/-- V-IM-4, V-IM-6. -/
theorem test_addI : after (tick { regs [(2, 1)] with i := 0xFFF } 0xF21E) (fun t => t.i == 0x1000 && t.reg 0xF == 0) ∧
    after (tick { regs [(2, 0xFF)] with i := 0xFFF0 } 0xF21E) (fun t => t.i == 0x00EF) := by decide

/-- V-IM-7, V-IM-8. -/
theorem test_ldF : after (tick (regs [(0, 0x0A)]) 0xF029) (fun t => t.i == 0x32) ∧
    after (tick (regs [(0, 0xFF)]) 0xF029) (fun t => t.i == 0x4FB) := by decide

/-- V-IM-9, V-IM-22: the font table can be overwritten. -/
theorem test_ldB : after (tick { regs [(0, 254)] with i := 0x300 } 0xF033)
      (fun t => (t.mem.readByte 0x300, t.mem.readByte 0x301, t.mem.readByte 0x302) == (2, 5, 4)) ∧
    after (tick (regs [(0, 123)]) 0xF033)
      (fun t => (t.mem.readByte 0, t.mem.readByte 1, t.mem.readByte 2) == (1, 2, 3)) := by decide

/-- V-IM-10, V-IM-11. -/
theorem test_ldB_edge : after (tick { State.reset with i := 4093 } 0xF033) (fun t => t.mem.readByte 4095 == 0) ∧
    faults (tick { State.reset with i := 4094 } 0xF033) .memoryOutOfBounds := by decide

/-- V-IM-12: the bound is exclusive, and I is unchanged. -/
theorem test_storeRegs : after (tick { regs [(0, 0x11), (1, 0x22), (2, 0x33)] with i := 0x400 } 0xF255)
    (fun t => t.mem.readByte 0x400 == 0x11 && t.mem.readByte 0x401 == 0x22 && t.mem.readByte 0x402 == 0 && t.i == 0x400) := by
  decide

/-- V-IM-13, V-IM-15, V-IM-16. -/
theorem test_storeRegs_edge : after (tick { State.reset with i := 0xFFFF } 0xF055) (fun t => t.pc == 0x202) ∧
    after (tick { regs [(1, 9)] with i := 0xFFE } 0xF255) (fun t => t.mem.readByte 0xFFF == 9) ∧
    faults (tick { State.reset with i := 0xFFF } 0xF255) .memoryOutOfBounds := by decide

/-- V-IM-18. -/
theorem test_loadRegs : after (tick (withBytes { State.reset with i := 0x300 } 0x300 [2, 5, 4, 9]) 0xF365)
    (fun t => t.reg 0 == 2 && t.reg 1 == 5 && t.reg 2 == 4 && t.reg 3 == 0 && t.i == 0x300) := by decide

/-- V-IM-20, V-IM-21. -/
theorem test_loadRegs_font : after (tick State.reset 0xFF65)
      (fun t => t.v.toList == [0xF0, 0x90, 0x90, 0x90, 0xF0, 0x20, 0x60, 0x20, 0x20, 0x70, 0xF0, 0x10, 0xF0, 0x80, 0xF0, 0]) ∧
    faults (tick { State.reset with i := 0xFFF } 0xF265) .memoryOutOfBounds := by decide

/-! ## Display -/

/-- V-CLS-1. -/
theorem test_cls : after (tick (lit (regs [(0xF, 0x55)]) [(3, 5), (31, 63)]) 0x00E0)
    (fun t => litExactly t [] && t.reg 0xF == 0x55) := by decide

/-- Program P5, its first DRW: the sprite wraps on both axes. -/
theorem test_drw_wraps : after (tick (withBytes { regs [(0, 62), (1, 31)] with i := 0x20C } 0x20C [0xF0, 0x81]) 0xD012)
    (fun t => litExactly t [(0, 5), (0, 62), (31, 0), (31, 1), (31, 62), (31, 63)] && t.reg 0xF == 0) := by decide

/-- V-DRW-8, V-DRW-14: a collision, and VF as a coordinate. -/
theorem test_drw_collision : after (tick (lit (withBytes { State.reset with i := 0x300 } 0x300 [0xC0]) [(0, 0)]) 0xD011)
      (fun t => litExactly t [(0, 1)] && t.reg 0xF == 1) ∧
    after (tick (withBytes { regs [(0xF, 5)] with i := 0x300 } 0x300 [0x80]) 0xDF11)
      (fun t => litExactly t [(0, 5)] && t.reg 0xF == 0) := by decide

/-- V-DRW-10, V-DRW-12, V-DRW-13. -/
theorem test_drw_edge : after (tick { regs [(0xF, 1)] with i := 0xFFFF } 0xD010) (fun t => litExactly t [] && t.reg 0xF == 0) ∧
    after (tick { State.reset with i := 0xFFF } 0xD011) (fun t => t.pc == 0x202) ∧
    faults (tick { State.reset with i := 0xFFF } 0xD012) .memoryOutOfBounds := by decide

/-! ## Keypad -/

/-- V-KEY-1, V-KEY-2. -/
theorem test_skp : after (tick (pressing (regs [(4, 7)]) [7]) 0xE49E) (fun t => t.pc == 0x204) ∧
    after (tick (pressing (regs [(4, 7)]) [6]) 0xE49E) (fun t => t.pc == 0x202) := by decide

/-- V-KEY-3, V-KEY-4. -/
theorem test_sknp : after (tick (regs [(4, 7)]) 0xE4A1) (fun t => t.pc == 0x204) ∧
    after (tick (pressing (regs [(4, 7)]) [7]) 0xE4A1) (fun t => t.pc == 0x202) := by decide

/-- V-KEY-5, V-KEY-6. -/
theorem test_key_range : after (tick (pressing (regs [(4, 15)]) [15]) 0xE49E) (fun t => t.pc == 0x204) ∧
    faults (tick (regs [(4, 16)]) 0xE49E) .keyIndexOutOfRange ∧
    faults (tick (regs [(4, 0xFF)]) 0xE4A1) .keyIndexOutOfRange := by decide

/-- V-KEY-7: the whole state is as before the tick. -/
theorem test_ldVxK_waits : after (tick (regs [(1, 0x99)]) 0xF10A)
    (fun t => t == (regs [(1, 0x99)]).withFetchWord 16 0xF10A) := by decide

/-- V-KEY-8, V-KEY-10. -/
theorem test_ldVxK : after (tick (pressing State.reset [3, 7]) 0xF10A) (fun t => t.reg 1 == 3 && t.pc == 0x202) ∧
    after (tick (pressing State.reset [15]) 0xF10A) (fun t => t.reg 1 == 15) := by decide

/-! ## Timers -/

/-- V-TM-1. -/
theorem test_ldVxDt : after (tick { State.reset with dt := 0x2A } 0xF207) (fun t => t.reg 2 == 0x2A && t.dt == 0x2A) := by
  decide

/-- V-TM-2. -/
theorem test_ldDtVx : after (tick (regs [(1, 3)]) 0xF115) (fun t => t.dt == 3 && t.st == 0) := by decide

/-- V-TM-3. -/
theorem test_ldStVx : after (tick (regs [(5, 1)]) 0xF518) (fun t => t.st == 1 && t.dt == 0) := by decide

/-- V-TM-4, V-TM-6, V-TM-7, V-TM-8 and V-TM-5. -/
theorem test_advanceTimers : timersAfter 3 0 = (2, 0, false) ∧ timersAfter 1 2 = (0, 1, false) ∧
    timersAfter 0 1 = (0, 0, true) ∧ timersAfter 255 255 = (254, 254, false) ∧ timersAfter 0 0 = (0, 0, false) := by
  decide

/-! ## Host operations -/

/-- R200, R25: with the default FONT, INITIALIZE is the reset state. -/
theorem test_initialState : initialState fontTable = State.reset := by decide

/-- V-HO-3: a second load clears nothing. -/
theorem test_loadProgram : after (loadProgram [0x12, 0x00] (withBytes State.reset 0x200 [0x60, 0x01, 0x61, 0x02]))
    (fun t => (t.mem.readByte 0x200, t.mem.readByte 0x201, t.mem.readByte 0x202, t.mem.readByte 0x203) ==
      (0x12, 0x00, 0x61, 0x02)) := by decide

/-- V-HO-2, V-HO-4. -/
theorem test_contract : loadProgram (List.replicate 3585 0) State.reset = .refused .imageTooLarge ∧
    setKey 16 true State.reset = .refused .keyIndexNotAKey := by
  constructor
  · rw [loadProgram, if_neg (by rw [List.length_replicate]; decide)]
  · rfl

/-- V-HO-5. -/
theorem test_setKey : after (setKey 4 true State.reset) (fun t => t.key[4] && !t.key[5]) ∧
    after (andThen (setKey 4 true State.reset) (setKey 4 false)) (fun t => t == State.reset) := by decide

/-- R157: the test port shows the keys, memory and pixels as well. -/
theorem test_testPort : let v := testPort (pressing (withBytes State.reset 0x300 [7]) [3])
    v.key[3] = true ∧ v.key[4] = false ∧ v.mem.readByte 0x300 = 7 ∧ v.pc = 0x200 ∧ v.fb = clearedFb := by decide

/-- R150: READ_STATE changes nothing and shows SP and pc. -/
theorem test_readState : after (operate State.reset .readState { State.reset with sp := 3 }) (fun p =>
    p.1 == { State.reset with sp := 3 } && match p.2 with
      | .view v => v.sp == 3 && v.pc == 0x200
      | _ => false) := by decide

/-- P2: a fatal halts the machine with its code, and V-RS-2: RESET leaves the halted state. -/
theorem test_halt_and_reset :
    after (operate (regs [(3, 3)]) (.tick 0) (State.reset.withFetchWord 16 0x00EE))
      (fun p => p.1.halted && p.1.cause == 2 && p.2 == .fatal .stackUnderflow) ∧
    after (operate State.reset (.reset fontTable) (haltWith (regs [(3, 3)]) .stackUnderflow))
      (fun p => p.1 == State.reset && p.2 == .none) := by decide

end Sys2Proof.Tests
end

