-- ==== Sys2Proof/Tests/Witnesses.lean ====
section
/-! SUPPORT. For each statement with hypotheses, a concrete state and operands that meet them, with one witness for each
clause at a boundary of its range. -/

namespace Sys2Proof.Tests

open Machine

/-- The word `w` at pc of the reset state, not yet run. -/
def at200 (w : Nat) : State := State.reset.withFetchWord 16 w

/-- The reset state with a stack of `n` return addresses, all 0x202. -/
def nested (n : Nat) : State := { State.reset with sp := BitVec.ofNat 16 n, stack := Vector.replicate 16 0x202 }

/-! ## Reset and decoding -/

theorem witness_FirstTickAfterResetIsNop :
    operate State.reset (.reset fontTable) (at200 0x1ABC) = .next (startOver fontTable (at200 0x1ABC), .none) := rfl

theorem witness_DecodeOfEncode : (Instr.drw 0xF 0xF 0xF).wellFormed = true := by decide

theorem witness_EncodeOfDecode : decodeWord 0xFFFF = .error .illegalFxnn ∧ decodeWord 0xFF65 = .ok (.loadRegs 0xF) := by
  exact ⟨rfl, rfl⟩

theorem witness_DecoderFollowsOpcodeMap :
    decodeWord 0xDFFF = .ok (.drw 0xF 0xF 0xF) ∧ (∃ row ∈ opcodeMap, (0xDFFF : Word) &&& row.mask = row.code) :=
  ⟨rfl, ⟨"Dxyn", 0xD000, 0xF000⟩, by decide, by decide⟩

/-! ## The tick -/

theorem witness_FetchReadsWordAndAdvances :
    ({ State.reset with pc := 4094 } : State).pc.toNat ≤ 4094 ∧ ({ State.reset with pc := 4095 } : State).pc.toNat > 4094 := by
  decide

theorem witness_StepRunsDecodedInstruction : (at200 0x6A05).halted = false ∧ (at200 0x6A05).pc.toNat ≤ 4094 ∧
    (Instr.ldImm 0xA 5).wellFormed = true ∧ Fetches (at200 0x6A05) (.ldImm 0xA 5) := by
  exact ⟨rfl, by decide, by decide, by decide, rfl⟩

theorem witness_PlacedWordRunsNext : State.reset.mem.wf ∧ decodeTableWord 16 0xFF65 = some (.loadRegs 0xF) := by decide

theorem witness_UnmatchedWordIsFatal : (at200 0x8128).halted = false ∧ (at200 0x8128).pc.toNat ≤ 4094 ∧
    ∀ row ∈ opcodeMap, wordAtPc (at200 0x8128) &&& row.mask ≠ row.code := by decide

theorem witness_FatalExactlyOnItsCondition_stack :
    FatalCondition { at200 0x2ABC with sp := 16 } .stackOverflow ∧ FatalCondition (at200 0x00EE) .stackUnderflow :=
  ⟨⟨0xABC, ⟨by decide, rfl⟩, by decide⟩, ⟨by decide, rfl⟩, rfl⟩

theorem witness_FatalExactlyOnItsCondition_fetch :
    FatalCondition { State.reset with pc := 4095 } .fetchOutOfBounds ∧ FatalCondition (at200 0x8128) .illegalInstruction :=
  ⟨(by decide : (4095 : Word).toNat > 4094), by decide, fun i h => by
    have e : decodeWord (wordAtPc (at200 0x8128)) = .error .illegal8xyn := rfl
    rw [e] at h; cases h⟩

theorem witness_FatalExactlyOnItsCondition_memory :
    FatalCondition { at200 0xD01F with i := 4082 } .memoryOutOfBounds ∧
    FatalCondition { at200 0xF033 with i := 4094 } .memoryOutOfBounds ∧
    FatalCondition { at200 0xF155 with i := 4096 } .memoryOutOfBounds ∧
    FatalCondition { at200 0xFF65 with i := 4082 } .memoryOutOfBounds :=
  ⟨.inl ⟨0, 1, 0xF, ⟨by decide, rfl⟩, by decide, by decide⟩, .inr (.inl ⟨0, ⟨by decide, rfl⟩, by decide⟩),
    .inr (.inr ⟨1, .inl ⟨by decide, rfl⟩, by decide, by decide⟩),
    .inr (.inr ⟨0xF, .inr ⟨by decide, rfl⟩, by decide, by decide⟩)⟩

theorem witness_FatalExactlyOnItsCondition_key :
    FatalCondition ((at200 0xE49E).setReg 4 16) .keyIndexOutOfRange ∧
    FatalCondition ((at200 0xE4A1).setReg 4 16) .keyIndexOutOfRange :=
  ⟨⟨4, .inl ⟨by decide, rfl⟩, by decide⟩, ⟨4, .inr ⟨by decide, rfl⟩, by decide⟩⟩

theorem witness_RefusalsOfStep : ({ State.reset with halted := true } : State).halted = true ∧
    (at200 0x00EE).halted = false ∧ Fetches { at200 0x00EE with sp := 17 } .ret ∧
    ({ at200 0x00EE with sp := 17 } : State).sp.toNat > 16 := ⟨rfl, rfl, ⟨by decide, rfl⟩, by decide⟩

/-- A state other than reset that meets the invariant: sixteen calls deep, pc at its greatest. -/
theorem witness_Inv : Inv { nested 16 with pc := 0x10FE } :=
  ⟨by decide, by decide, by decide, fun k _ => by revert k; decide, by decide, by decide⟩

theorem witness_StepKeepsInv : Inv (nested 16) ∧ ∃ t, step (nested 16) = .next t :=
  ⟨⟨by decide, by decide, by decide, fun k _ => by revert k; decide, by decide, by decide⟩, _, rfl⟩

/-! ## Control flow and skips -/

theorem witness_CallPushesAndJumps : (nested 15).sp.toNat < 16 ∧ (nested 16).sp.toNat ≥ 16 := by decide

theorem witness_RetPopsIntoPc : (1 ≤ (nested 1).sp.toNat ∧ (nested 1).sp.toNat ≤ 16) ∧
    (1 ≤ (nested 16).sp.toNat ∧ (nested 16).sp.toNat ≤ 16) ∧ (nested 0).sp = 0 ∧ ReturnAddresses (nested 16) :=
  ⟨by decide, by decide, by decide, fun k _ => by revert k; decide⟩

theorem witness_RetPopsIntoPc_roundTrip :
    ∃ t t' : State, exec (.call 0xABC) (nested 14) = .next t ∧ t'.sp = t.sp ∧
      (∀ k : Fin 16, k.val = (nested 14).sp.toNat → t'.stack[k] = t.stack[k]) ∧ t'.stack ≠ t.stack :=
  ⟨_, { nested 15 with stack := ((nested 15).stack.set 14 0x200).set 15 0xABE }, rfl, rfl, by decide, by decide⟩

/-- The fourth clause needs a tick that completes, the fifth one that fetches Fx18. -/
theorem witness_TimerMoves : (at200 0xF518).halted = false ∧ Fetches (at200 0xF518) (.ldStVx 5) ∧
    ∃ t, tickWith 0 (at200 0xF518) = .next t := ⟨rfl, ⟨by decide, rfl⟩, _, rfl⟩

theorem witness_SelfJumpIsFixedPoint : AtSelfJump (at200 0x1200) := ⟨rfl, 0x200, ⟨by decide, rfl⟩, rfl⟩

theorem witness_RegisterSkips : (0x5121 : Word).toNat / 4096 = 5 ∧ (0x5121 : Word).toNat % 16 ≠ 0 ∧
    (0x912F : Word).toNat / 4096 = 9 ∧ (0x912F : Word).toNat % 16 ≠ 0 := by decide

/-! ## ALU -/

/-- For the clause x ≠ F of the flag-writing instructions, at its last value, and the case x = F beside it. -/
theorem witness_destination_not_vf : (0xE : Nibble) ≠ 0xF ∧ (0xF : Nibble) = 0xF := by decide

theorem witness_ShiftsDoNotReadVy : (2 : Nibble) ≠ 1 ∧ (2 : Nibble) ≠ 0xF ∧
    (∃ t, exec (.shr 1 2) State.reset = .next t) ∧ ∃ t, exec (.shl 1 2) State.reset = .next t :=
  ⟨by decide, by decide, ⟨_, rfl⟩, _, rfl⟩

theorem witness_RndMasksDrawnByte : (at200 0xC30F).halted = false ∧ Fetches (at200 0xC30F) (.rnd 3 0x0F) :=
  ⟨rfl, by decide, rfl⟩

theorem witness_RandomByteReachesOnlyRnd : ∀ x nn, ¬ Fetches (at200 0x6A05) (.rnd x nn) := fun _ _ h => by
  have e : decodeWord (wordAtPc (at200 0x6A05)) = .ok (.ldImm 0xA 5) := rfl
  rw [h.2] at e; cases e

/-! ## Index and memory -/

theorem witness_ByteReadAndWrite : 4095 ≤ 4095 ∧ (withBytes State.reset 0 [1, 2]).mem.wf := by decide

theorem witness_BcdStoresDigits : State.reset.mem.wf ∧ ({ State.reset with i := 4093 } : State).i.toNat + 2 ≤ 4095 ∧
    ({ State.reset with i := 4094 } : State).i.toNat + 2 > 4095 := by decide

/-- For Fx55 and Fx65: x = 0 at any I, the last address 4095, and one past it. -/
theorem witness_StoreRegsExclusive_LoadRegsExclusive : State.reset.mem.wf ∧ (0 : Nibble).toNat = 0 ∧
    ({ State.reset with i := 4081 } : State).i.toNat + (0xF : Nibble).toNat - 1 ≤ 4095 ∧
    (1 : Nibble).toNat ≠ 0 ∧ ({ State.reset with i := 4096 } : State).i.toNat + (1 : Nibble).toNat - 1 > 4095 := by decide

theorem witness_StoreSeenByNextFetch : State.reset.mem.wf ∧
    (∃ t, memWrite { State.reset with pc := 4094 } 4094 0x12 = .next t) ∧ ({ State.reset with pc := 4094 } : State).pc.toNat = 4094 ∧
    (∃ t, memWrite { State.reset with pc := 4094 } 4095 0x34 = .next t) ∧
    ({ State.reset with pc := 4094 } : State).pc.toNat + 1 = 4095 :=
  ⟨by decide, ⟨_, rfl⟩, by decide, ⟨_, rfl⟩, by decide⟩

/-! ## Display -/

theorem witness_DrwTogglesSpritePixels : (0 : Nibble).toNat = 0 ∧
    ({ State.reset with i := 4081 } : State).i.toNat + (0xF : Nibble).toNat - 1 ≤ 4095 ∧ (0xF : Nibble).toNat ≠ 0 ∧
    ({ State.reset with i := 4082 } : State).i.toNat + (0xF : Nibble).toNat - 1 > 4095 := by decide

/-- The glyph of 0 drawn at (0, 0), and again. -/
theorem witness_DrawTwiceRestores : ∃ t u, exec (.drw 0 1 5) State.reset = .next t ∧ t.fb = t.fb ∧
    t.reg 0 = State.reset.reg 0 ∧ t.reg 1 = State.reset.reg 1 ∧ t.i = State.reset.i ∧
    (∀ k < (5 : Nibble).toNat, t.mem.readByte (State.reset.i.toNat + k) = State.reset.mem.readByte (State.reset.i.toNat + k)) ∧
    exec (.drw 0 1 5) t = .next u := ⟨_, _, rfl, rfl, rfl, rfl, rfl, fun _ _ => rfl, rfl⟩

/-! ## Keypad and timers -/

theorem witness_KeySkips : ((regs [(4, 15)]).reg 4).toNat < 16 ∧ ((regs [(4, 16)]).reg 4).toNat ≥ 16 := by decide

theorem witness_KeyWaitTakesLowestOrRepeats_pressed :
    ((pressing State.reset [15]).key[(15 : Fin 16)] = true ∧ ∀ j : Fin 16, j < 15 → (pressing State.reset [15]).key[j] = false) ∧
    (pressing State.reset [0, 7]).key[(0 : Fin 16)] = true := by decide

theorem witness_KeyWaitTakesLowestOrRepeats_waits :
    (∀ k : Fin 16, (at200 0xF10A).key[k] = false) ∧ (at200 0xF10A).halted = false ∧ Fetches (at200 0xF10A) (.ldVxK 1) :=
  ⟨by decide, rfl, by decide, rfl⟩

/-! ## Host operations -/

/-- For the operations of a machine that is not halted. -/
theorem witness_not_halted : State.reset.halted = false ∧ State.reset.mem.wf := by decide

theorem witness_LoadProgramCopiesImage : (List.replicate 3584 (0x12 : Byte)).length ≤ 3584 := by
  rw [List.length_replicate]

theorem witness_ContractViolationsRefused : (List.replicate 3585 (0x12 : Byte)).length > 3584 ∧ 16 > 15 := by
  rw [List.length_replicate]; decide

theorem witness_BootFetchesFirstWord : (List.replicate 3582 (0x12 : Byte)).length ≤ 3582 ∧
    HasWord (.ldImm 0xA 5) ((0x6A : Byte).toNat * 256 + (0x05 : Byte).toNat) :=
  ⟨by rw [List.length_replicate], fun w hw => by
    have e : w = 0x6A05 := BitVec.eq_of_toNat_eq hw
    subst e; rfl⟩

theorem witness_FatalHaltsUntilReset : tickWith 0 (at200 0x00EE) = .fault .stackUnderflow ∧
    tickWith 0 { nested 16 with mem := (at200 0x2200).mem } = .fault .stackOverflow ∧
    tickWith 0 (at200 0x8128) = .fault .illegalInstruction ∧
    tickWith 0 { State.reset with pc := 4095 } = .fault .fetchOutOfBounds ∧
    tickWith 0 { at200 0xF033 with i := 4094 } = .fault .memoryOutOfBounds ∧
    tickWith 0 ((at200 0xE49E).setReg 4 16) = .fault .keyIndexOutOfRange := ⟨rfl, rfl, rfl, rfl, rfl, rfl⟩

theorem witness_HostOperationsKeepInv : Inv (nested 16) ∧
    operate (nested 16) (.tick 0) { nested 16 with pc := 0x10FE } =
      .next (haltWith (nested 16) .fetchOutOfBounds, .fatal .fetchOutOfBounds) :=
  ⟨witness_StepKeepsInv.1, rfl⟩

/-! ## Rules over all instructions -/

/-- A state each part of which the instruction of its clause changes. -/
theorem witness_WhoChangesWhat :
    after (exec (.ldI 0x300) State.reset) (fun t => t.i != State.reset.i) ∧
    after (exec (.addI 1) (regs [(1, 1)])) (fun t => t.i != 0) ∧
    after (exec (.ldF 1) (regs [(1, 1)])) (fun t => t.i != 0) ∧
    after (exec .ret (nested 1)) (fun t => t.sp != 1) ∧
    after (exec (.call 0x300) (nested 0)) (fun t => t.sp != 0) ∧
    after (exec (.call 0x300) State.reset) (fun t => t.stack != State.reset.stack) ∧
    after (exec (.ldDtVx 1) (regs [(1, 1)])) (fun t => t.dt != 0) ∧
    after (exec (.ldStVx 1) (regs [(1, 1)])) (fun t => t.st != 0) := by decide

theorem witness_WhoChangesWhat_stores :
    after (exec .cls (lit State.reset [(0, 0)])) (fun t => pixelAt t.fb 0 0 != true) ∧
    after (exec (.drw 0 1 1) State.reset) (fun t => pixelAt t.fb 0 0 != false) ∧
    after (exec (.ldB 1) (regs [(1, 1)])) (fun t => t.mem.readByte 0 != 0xF0) ∧
    after (exec (.storeRegs 1) State.reset) (fun t => t.mem.readByte 0 != 0xF0) ∧
    ∃ t, exec (.rnd 1 0) State.reset = .next t ∧ t.draws ≠ State.reset.draws :=
  ⟨by decide, by decide, by decide, by decide, _, rfl, by decide⟩

theorem witness_VfChangesOnlyAsFlagOrDestination :
    after (exec (.subReg 1 2) State.reset) (fun t => t.reg 0xF != State.reset.reg 0xF) ∧
    after (exec (.ldImm 0xF 7) State.reset) (fun t => t.reg 0xF != State.reset.reg 0xF) ∧
    after (exec (.ldReg 0xF 1) (regs [(1, 7)])) (fun t => t.reg 0xF != 0) ∧
    after (exec (.ldVxK 0xF) (pressing State.reset [3])) (fun t => t.reg 0xF != 0) := by decide

theorem witness_ReadStateHidesMemoryAndKeys :
    KeepsAllBut (fun p => p = .draws ∨ (∃ a, p = .byte a) ∨ (∃ k, p = .key k) ∨ ∃ r c, p = .pixel r c) State.reset
      { State.reset with mem := [(0x300, 7)], key := Vector.replicate 16 true } := by
  intro p hp
  cases p with
  | byte a => exact absurd (.inr (.inl ⟨a, rfl⟩)) hp
  | key k => exact absurd (.inr (.inr (.inl ⟨k, rfl⟩))) hp
  | halt => exact ⟨rfl, rfl⟩
  | _ => rfl

end Sys2Proof.Tests
end

/-! PROOFS. The family of spec/10_state.md: the invariant at reset (R25), and who changes VF (R12). -/

section

namespace Sys2Proof.Machine

/-! ## What loading and storing can complete with -/

theorem loadBytes_eq_next {s : State} {n a : Nat} {bs : List Byte} : loadBytes s n a = .next bs ↔
    (n = 0 ∨ a + n ≤ Config.memBytes) ∧ bs = (List.range n).map fun k => s.mem.readByte (a + k) := by
  by_cases h : n = 0 ∨ a + n ≤ Config.memBytes
  · simp [loadBytes_inside s n a h, h, eq_comm]
  · obtain ⟨hn, ha⟩ := not_or.mp h
    simp [loadBytes_outside s n a hn (by omega), h]

theorem storeBytes_eq_next {bs : List Byte} {a : Nat} {s t : State} : storeBytes bs a s = .next t ↔
    (bs = [] ∨ a + bs.length ≤ Config.memBytes) ∧ t = { s with mem := Memory.writeBytes bs a s.mem } := by
  by_cases h : bs = [] ∨ a + bs.length ≤ Config.memBytes
  · simp [storeBytes_inside bs a s h, h, eq_comm]
  · obtain ⟨hb, ha⟩ := not_or.mp h
    simp [storeBytes_outside bs a s hb (by omega), h]

/-! ## What an instruction with more than one outcome completes with -/

theorem execRet_reg {s t : State} (h : execRet s = .next t) (k : Nibble) : t.reg k = s.reg k := by
  obtain ⟨p, hp, ht⟩ := andThen_eq_next.mp h
  obtain ⟨_, _, rfl⟩ := pop_eq_next.mp hp
  cases ht; rfl

theorem execCall_reg {nnn : Addr12} {s t : State} (h : execCall nnn s = .next t) (k : Nibble) :
    t.reg k = s.reg k := by
  obtain ⟨u, hu, ht⟩ := andThen_eq_next.mp h
  obtain ⟨_, rfl⟩ := push_eq_next.mp hu
  cases ht; rfl

theorem execSkp_eq_next {x : Nibble} {s t : State} (h : execSkp x s = .next t) : ∃ c, t = skipIf c s := by
  obtain ⟨c, -, ht⟩ := andThen_eq_next.mp h
  cases ht; exact ⟨_, rfl⟩

theorem execSknp_eq_next {x : Nibble} {s t : State} (h : execSknp x s = .next t) : ∃ c, t = skipIf c s := by
  obtain ⟨c, -, ht⟩ := andThen_eq_next.mp h
  cases ht; exact ⟨_, rfl⟩

theorem execDrw_eq_next {x y n : Nibble} {s t : State} (h : execDrw x y n s = .next t) :
    ∃ fb hit, t = { s with fb := fb }.setReg 0xF (flagByte hit) := by
  obtain ⟨bs, -, ht⟩ := andThen_eq_next.mp h
  cases ht; exact ⟨_, _, rfl⟩

theorem storeBytes_reg {bs : List Byte} {a : Nat} {s t : State} (h : storeBytes bs a s = .next t) (k : Nibble) :
    t.reg k = s.reg k := by
  obtain ⟨-, rfl⟩ := storeBytes_eq_next.mp h
  rfl

/-- Fx65 loads the registers below Vx alone (R115): its bound is exclusive. -/
theorem execLoadRegs_reg_of_ge {x k : Nibble} {s t : State} (h : execLoadRegs x s = .next t) (hk : x ≤ k) :
    t.reg k = s.reg k := by
  obtain ⟨bs, hbs, ht⟩ := andThen_eq_next.mp h
  obtain ⟨-, rfl⟩ := loadBytes_eq_next.mp hbs
  cases ht
  have hlt := x.isLt
  have hle : x.toNat ≤ k.toNat := hk
  rw [writeRegs_reg _ _ _ (by simp; omega), dif_neg (by simp; omega)]

/-- Fx0A either takes a key or moves pc back onto itself (R133). -/
theorem execLdVxK_eq_next {x : Nibble} {s t : State} (h : execLdVxK x s = .next t) :
    (∃ k, t = s.setReg x (BitVec.ofNat 8 k)) ∨ t = { s with pc := s.pc - 2 } := by
  unfold execLdVxK at h
  split at h
  · cases h; exact .inl ⟨_, rfl⟩
  · cases h; exact .inr rfl

/-! ## Changes of one register -/

/-- A register that `setReg` changes is the one written. -/
theorem eq_of_reg_setReg_ne {s : State} {x k : Nibble} {b : Byte} (h : (s.setReg x b).reg k ≠ s.reg k) : x = k := by
  by_contra hx
  exact h (reg_setReg_of_ne s b (Ne.symm hx))

theorem flagByte_eq_zero_or_one (f : Bool) : flagByte f = 0 ∨ flagByte f = 1 := by
  cases f
  · exact .inl rfl
  · exact .inr rfl

/-- VF ends as 0 or 1 where the flag is written last, at x = F too. -/
theorem writeWithFlag_flag_eq_zero_or_one (s : State) (x : Nibble) (b : Byte) (c : Bool) :
    (writeWithFlag s x b c).reg 0xF = 0 ∨ (writeWithFlag s x b c).reg 0xF = 1 := by
  simpa using flagByte_eq_zero_or_one c

/-! ## Reset -/

theorem Memory.wf_nil : Memory.wf [] := ⟨.nil, by simp⟩

/-- The invariant asks nothing of the reset state but that memory be canonical. -/
theorem inv_reset_with_mem {m : Memory} (hm : m.wf) : Inv { State.reset with mem := m } where
  memory := hm
  depth := Nat.zero_le 16
  pcBound := show (0x200 : Word).toNat ≤ 0x10FE by decide
  returns := fun k hk => absurd hk (Nat.not_lt_zero k)
  causeCode := Nat.zero_le 6
  haltCause := show false = true ↔ (0 : BitVec 3) ≠ 0 by decide

/-- The FONT fits memory, so installing it keeps the canonical form. -/
theorem initialState_mem_wf (font : Vector Byte 80) : (initialState font).mem.wf :=
  Memory.writeBytes_wf font.toList 0 [] Memory.wf_nil (by simp [Config.memBytes])

end Sys2Proof.Machine

namespace Sys2Proof

open Machine

/-- Settles O4: at reset the stack is empty and the machine runs, and memory is canonical with any FONT. -/
theorem resetMeetsInv : Obligations.ResetMeetsInv :=
  ⟨inv_reset_with_mem Memory.wf_nil, fun font => inv_reset_with_mem (initialState_mem_wf font)⟩

/-- Settles O56, by the kinds of instruction: those that write the flag last, those that write one register Vx, and the
rest, which keep VF. -/
theorem vfChangesOnlyAsFlagOrDestination : Obligations.VfChangesOnlyAsFlagOrDestination := by
  intro i s t h hne
  cases i with
  -- the flag is written last
  | addReg x y | subReg x y | shr x y | subnReg x y | shl x y =>
    cases h
    exact .inl ⟨writeWithFlag_flag_eq_zero_or_one _ _ _ _, .inl ⟨x, y, by simp⟩⟩
  | drw x y n =>
    obtain ⟨fb, hit, rfl⟩ := execDrw_eq_next h
    refine .inl ⟨?_, .inr ⟨x, y, n, rfl⟩⟩
    rw [reg_setReg_self]
    exact flagByte_eq_zero_or_one hit
  -- Vx alone is written
  | ldImm x nn | addImm x nn | rnd x nn =>
    cases h
    obtain rfl := eq_of_reg_setReg_ne hne
    exact .inr (.inl ⟨nn, by simp⟩)
  | ldReg x y | orReg x y | andReg x y | xorReg x y =>
    cases h
    obtain rfl := eq_of_reg_setReg_ne hne
    exact .inr (.inr (.inl ⟨y, by simp⟩))
  | ldVxDt x =>
    cases h
    obtain rfl := eq_of_reg_setReg_ne hne
    exact .inr (.inr (.inr (.inl rfl)))
  | ldVxK x =>
    obtain ⟨k, rfl⟩ | rfl := execLdVxK_eq_next h
    · obtain rfl := eq_of_reg_setReg_ne hne
      exact .inr (.inr (.inr (.inr rfl)))
    · exact absurd rfl hne
  -- no register is written
  | nop | cls | jp | jpV0 | ldI | ldDtVx | ldStVx | addI | ldF =>
    cases h
    exact absurd rfl hne
  | seImm | sneImm | seReg | sneReg =>
    cases h
    exact absurd (skipIf_reg _ _ _) hne
  | skp x =>
    obtain ⟨c, rfl⟩ := execSkp_eq_next h
    exact absurd (skipIf_reg _ _ _) hne
  | sknp x =>
    obtain ⟨c, rfl⟩ := execSknp_eq_next h
    exact absurd (skipIf_reg _ _ _) hne
  | ret => exact absurd (execRet_reg h _) hne
  | call nnn => exact absurd (execCall_reg h _) hne
  | ldB | storeRegs => exact absurd (storeBytes_reg h _) hne
  -- the registers below Vx are written, and VF is the highest
  | loadRegs x =>
    have hx : x ≤ 0xF := Nat.le_of_lt_succ x.isLt
    exact absurd (execLoadRegs_reg_of_ge h hx) hne

end Sys2Proof

end

/-! PROOFS. The family of spec/20_memory.md: reading and writing a byte (R33, R35), fetching a word (R36), and the store
that the next fetch sees (R43). -/

section

namespace Sys2Proof

open Machine

/-! ## Frames of the update of one field -/

theorem keepsAllBut_with_pc (s : State) (w : Word) : KeepsAllBut (· = .pc) s { s with pc := w } := by
  intro p hp
  cases p with
  | pc => exact absurd rfl hp
  | halt => exact ⟨rfl, rfl⟩
  | _ => rfl

/-- A write to memory keeps every part but the byte written. -/
theorem keepsAllBut_with_writeByte (s : State) (a : Nat) (b : Byte) (hm : s.mem.wf) :
    KeepsAllBut (· = .byte a) s { s with mem := s.mem.writeByte a b } := by
  intro p hp
  cases p with
  | byte c =>
    have hc : c ≠ a := fun h => hp (congrArg Part.byte h)
    exact (Memory.readByte_writeByte s.mem a b c hm).trans (if_neg hc)
  | halt => exact ⟨rfl, rfl⟩
  | _ => rfl

/-! ## The two bytes of a word -/

theorem toNat_joinBytes_div (high low : Byte) : (joinBytes high low).toNat / 256 = high.toNat := by
  have := low.isLt
  rw [toNat_joinBytes]
  omega

theorem toNat_joinBytes_mod (high low : Byte) : (joinBytes high low).toNat % 256 = low.toNat := by
  have := low.isLt
  rw [toNat_joinBytes]
  omega

/-- The bytes of a table word laid out in memory decode exactly as the word does. -/
theorem decodeTableWord_eq_some {nbits w : Nat} {i : Instr} :
    decodeTableWord nbits w = some i ↔ decodeWord (tableWord nbits w) = .ok i := by
  have hj := joinBytes_wordBytes (tableWord nbits w) _ _ rfl
  simp only [decodeTableWord, wordBytes, decode, hj]
  cases decodeWord (tableWord nbits w) <;> simp

end Sys2Proof

namespace Sys2Proof.Machine

/-! ## Reading and writing a byte -/

theorem memRead_eq_next {s : State} {a : Nat} {b : Byte} :
    memRead s a = .next b ↔ a < Config.memBytes ∧ b = s.mem.readByte a := by
  unfold memRead
  split <;> simp_all [raise, eq_comm]

theorem memWrite_eq_next {s t : State} {a : Nat} {b : Byte} :
    memWrite s a b = .next t ↔ a < Config.memBytes ∧ t = { s with mem := s.mem.writeByte a b } := by
  unfold memWrite
  split <;> simp_all [raise, eq_comm]

/-- The byte written is read back at its address. -/
theorem Memory.readByte_writeByte_self (m : Memory) (a : Nat) (b : Byte) (hm : m.wf) :
    (m.writeByte a b).readByte a = b :=
  (Memory.readByte_writeByte m a b a hm).trans (if_pos rfl)

/-! ## The state with a word placed for the next fetch -/

theorem withFetchWord_halted (s : State) (nbits w : Nat) : (s.withFetchWord nbits w).halted = false := rfl

/-- The next fetch can read at pc, whatever pc was before. -/
theorem withFetchWord_pc_le (s : State) (nbits w : Nat) : (s.withFetchWord nbits w).pc.toNat ≤ 4094 := by
  by_cases h : s.pc.toNat ≤ 4094
  · simp [State.withFetchWord, placeWord, h]
  · simp [State.withFetchWord, placeWord, h, Config.loadAddress]

theorem withFetchWord_mem (s : State) (nbits w : Nat) : (s.withFetchWord nbits w).mem =
    Memory.writeBytes (wordBytes (tableWord nbits w)) (s.withFetchWord nbits w).pc.toNat s.mem := rfl

/-- The word at pc is the one placed. -/
theorem wordAtPc_withFetchWord (s : State) (nbits w : Nat) (hm : s.mem.wf) :
    wordAtPc (s.withFetchWord nbits w) = tableWord nbits w := by
  have hpc := withFetchWord_pc_le s nbits w
  have hfit : (s.withFetchWord nbits w).pc.toNat + (wordBytes (tableWord nbits w)).length ≤ Config.memBytes := by
    simp only [wordBytes, List.length_cons, List.length_nil, Config.memBytes]
    omega
  refine Eq.trans ?_ (joinBytes_wordBytes (tableWord nbits w) _ _ rfl)
  simp only [wordAtPc, withFetchWord_mem, Memory.readByte_writeBytes _ _ _ _ hm hfit]
  simp [wordBytes]

end Sys2Proof.Machine

namespace Sys2Proof

open Machine

/-- Settles O10: fetch completes with the two bytes joined exactly where pc is at most 4094. -/
theorem fetchReadsWordAndAdvances : Obligations.FetchReadsWordAndAdvances := fun s =>
  ⟨fun h => ⟨_, fetch_eq_next.mpr ⟨h, rfl⟩, toNat_joinBytes _ _, BitVec.toNat_add s.pc 2, keepsAllBut_with_pc s _⟩,
    fun h => fetch_eq_fault.mpr ⟨h, rfl⟩⟩

/-- Settles O12: the placed word is the one at pc, so the tick decodes it. -/
theorem placedWordRunsNext : Obligations.PlacedWordRunsNext := by
  intro s w i hm hd
  have hword : decodeWord (wordAtPc (s.withFetchWord 16 w)) = .ok i := by
    rw [wordAtPc_withFetchWord s 16 w hm]
    exact decodeTableWord_eq_some.mp hd
  exact tickBody_of_decode exec (withFetchWord_halted s 16 w) (withFetchWord_pc_le s 16 w) hword

/-- Settles O36, by what a write leaves at its own address and at the others. -/
theorem byteReadAndWrite : Obligations.ByteReadAndWrite := by
  intro s a b ha
  have ha : a < Config.memBytes := Nat.lt_succ_of_le ha
  refine ⟨memRead_eq_next.mpr ⟨ha, rfl⟩, fun hm => ⟨_, memWrite_eq_next.mpr ⟨ha, rfl⟩, ?_, ?_, ?_⟩⟩
  · exact memRead_eq_next.mpr ⟨ha, (Memory.readByte_writeByte_self s.mem a b hm).symm⟩
  · exact Memory.writeByte_wf s.mem a b hm ha
  · exact keepsAllBut_with_writeByte s a b hm

/-- Settles O40: fetch reads the memory the store left, and a store at pc + 1 that completes has pc at most 4094. -/
theorem storeSeenByNextFetch : Obligations.StoreSeenByNextFetch := by
  intro s t a b hm hw
  obtain ⟨ha, rfl⟩ := memWrite_eq_next.mp hw
  have hb := Memory.readByte_writeByte_self s.mem a b hm
  constructor
  · rintro rfl hpc
    exact ⟨_, fetch_eq_next.mpr ⟨hpc, rfl⟩, (toNat_joinBytes_div _ _).trans (congrArg BitVec.toNat hb)⟩
  · rintro rfl
    have hpc : s.pc.toNat ≤ 4094 := Nat.le_of_lt_succ (Nat.lt_of_succ_lt_succ ha)
    exact ⟨_, fetch_eq_next.mpr ⟨hpc, rfl⟩, (toNat_joinBytes_mod _ _).trans (congrArg BitVec.toNat hb)⟩

end Sys2Proof

end

/-! PROOFS. The family of spec/30_encoding.md: the decoder against the opcode map (R55), the words that match no row (R56),
and the field y that the shifts do not use (R59). -/

section

namespace Sys2Proof

/-! ## A word put together again from its own fields -/

theorem formA_of_fieldF1 {w : Word} {a : Nibble} (h : fieldF1 w = a) : formA a (fieldNNN w) = w := by
  subst h
  apply BitVec.eq_of_getLsbD_eq; intro i hi
  simp only [getLsbD_formA, fieldF1, fieldNNN, BitVec.getLsbD_extractLsb']
  interval_cases i <;> simp

theorem formXI_of_fieldF1 {w : Word} {a : Nibble} (h : fieldF1 w = a) : formXI a (fieldX w) (fieldNN w) = w := by
  subst h
  apply BitVec.eq_of_getLsbD_eq; intro i hi
  simp only [getLsbD_formXI, fieldF1, fieldX, fieldNN, BitVec.getLsbD_extractLsb']
  interval_cases i <;> simp

theorem formXY_of_fieldF1 {w : Word} {a : Nibble} (h : fieldF1 w = a) :
    formXY a (fieldX w) (fieldY w) (fieldN w) = w := by
  subst h
  apply BitVec.eq_of_getLsbD_eq; intro i hi
  simp only [getLsbD_formXY, fieldF1, fieldX, fieldY, fieldN, BitVec.getLsbD_extractLsb']
  interval_cases i <;> simp

/-! ## What a word decodes to is what it encodes -/

theorem encode_of_decodeFamily0 {w : Word} {i : Instr} (h : decodeFamily0 w = .ok i) : encode i = w := by
  unfold decodeFamily0 at h
  split_ifs at h <;> cases h <;> subst w <;> rfl

theorem encode_of_decodeFamily8 {x y n : Nibble} {i : Instr} (h : decodeFamily8 x y n = .ok i) :
    encode i = formXY 0x8 x y n := by
  unfold decodeFamily8 at h
  split_ifs at h <;> cases h <;> subst n <;> rfl

theorem encode_of_decodeFamilyE {x : Nibble} {nn : Byte} {i : Instr} (h : decodeFamilyE x nn = .ok i) :
    encode i = formXI 0xE x nn := by
  unfold decodeFamilyE at h
  split_ifs at h <;> cases h <;> subst nn <;> rfl

theorem encode_of_decodeFamilyF {x : Nibble} {nn : Byte} {i : Instr} (h : decodeFamilyF x nn = .ok i) :
    encode i = formXI 0xF x nn := by
  unfold decodeFamilyF at h
  split_ifs at h <;> cases h <;> subst nn <;> rfl

/-- No bit of a word that decodes is dropped. The cases are the arms of the decoder, which stand in the order of f1. -/
theorem encode_of_decodeWord {w : Word} {i : Instr} (h : decodeWord w = .ok i) : encode i = w := by
  unfold decodeWord at h
  split at h
  case h_1 => exact encode_of_decodeFamily0 h
  -- format A: 1nnn, 2nnn, Annn, Bnnn
  case h_2 hf | h_3 hf | h_11 hf | h_12 hf => cases h; exact formA_of_fieldF1 hf
  -- format XI: 3xnn, 4xnn, 6xnn, 7xnn, Cxnn
  case h_4 hf | h_5 hf | h_7 hf | h_8 hf | h_13 hf => cases h; exact formXI_of_fieldF1 hf
  -- 5xy0, 9xy0
  case h_6 hf | h_10 hf =>
    split_ifs at h with hn
    cases h
    exact (congrArg _ hn.symm).trans (formXY_of_fieldF1 hf)
  case h_9 hf => exact (encode_of_decodeFamily8 h).trans (formXY_of_fieldF1 hf)
  case h_14 hf => cases h; exact formXY_of_fieldF1 hf
  case h_15 hf => exact (encode_of_decodeFamilyE h).trans (formXI_of_fieldF1 hf)
  case h_16 =>
    have hf : fieldF1 w = 0xF := by generalize fieldF1 w = f at *; revert f; decide
    exact (encode_of_decodeFamilyF h).trans (formXI_of_fieldF1 hf)

/-! ## The fields that decide whether a word decodes -/

/-- The bits of a word of family f1 that the decoder looks at to tell an instruction from an illegal word (R54, R57). -/
def familyMask : Nibble → Word
  | 0x0#4 => 0xFFFF
  | 0x5#4 | 0x8#4 | 0x9#4 => 0xF00F
  | 0xE#4 | 0xF#4 => 0xF0FF
  | _ => 0xF000

theorem fieldF1_familyMask : ∀ f : Nibble, fieldF1 (familyMask f) = BitVec.allOnes 4 := by decide

/-- Words that agree under a mask agree in every field that the mask covers. -/
theorem extractLsb'_eq_of_and_eq {start len : Nat} {w c m : Word} (hm : m.extractLsb' start len = BitVec.allOnes len)
    (h : w &&& m = c &&& m) : w.extractLsb' start len = c.extractLsb' start len := by
  have h := congrArg (·.extractLsb' start len) h
  simpa only [BitVec.extractLsb'_and, hm, BitVec.and_allOnes] using h

theorem decodeFamily8_isOk_congr (x x' y y' n : Nibble) :
    (decodeFamily8 x y n).isOk = (decodeFamily8 x' y' n).isOk := by
  unfold decodeFamily8
  split_ifs <;> rfl

theorem decodeFamilyE_isOk_congr (x x' : Nibble) (nn : Byte) :
    (decodeFamilyE x nn).isOk = (decodeFamilyE x' nn).isOk := by
  unfold decodeFamilyE
  split_ifs <;> rfl

theorem decodeFamilyF_isOk_congr (x x' : Nibble) (nn : Byte) :
    (decodeFamilyF x nn).isOk = (decodeFamilyF x' nn).isOk := by
  unfold decodeFamilyF
  split_ifs <;> rfl

/-- The same for the mask of a family `f`, which is known where the decoder has selected the family. -/
theorem extractLsb'_eq_of_and_familyMask_eq {start len : Nat} {w c : Word} {f : Nibble} (hf : fieldF1 c = f)
    (hm : (familyMask f).extractLsb' start len = BitVec.allOnes len)
    (h : w &&& familyMask (fieldF1 c) = c &&& familyMask (fieldF1 c)) :
    w.extractLsb' start len = c.extractLsb' start len := by
  subst hf
  exact extractLsb'_eq_of_and_eq hm h

/-- Whether a word decodes depends on the bits of its family's mask alone. The cases are the arms of the decoder. -/
theorem decodeWord_isOk_congr {w c : Word} (h : w &&& familyMask (fieldF1 c) = c &&& familyMask (fieldF1 c)) :
    (decodeWord w).isOk = (decodeWord c).isOk := by
  have hf1 : fieldF1 w = fieldF1 c := extractLsb'_eq_of_and_eq (fieldF1_familyMask _) h
  rw [decodeWord, decodeWord, hf1]
  split
  -- family 0: the mask is the whole word
  case h_1 hf =>
    have hw : w &&& BitVec.allOnes 16 = c &&& BitVec.allOnes 16 := by rw [hf] at h; exact h
    rw [BitVec.and_allOnes, BitVec.and_allOnes] at hw
    rw [hw]
  -- the sub-opcode is n
  case h_6 hf | h_10 hf =>
    have hn : fieldN w = fieldN c := extractLsb'_eq_of_and_familyMask_eq hf (by decide) h
    rw [hn]
    split_ifs <;> rfl
  case h_9 hf =>
    have hn : fieldN w = fieldN c := extractLsb'_eq_of_and_familyMask_eq hf (by decide) h
    rw [hn]
    exact decodeFamily8_isOk_congr ..
  -- the sub-opcode is nn
  case h_15 hf =>
    have hnn : fieldNN w = fieldNN c := extractLsb'_eq_of_and_familyMask_eq hf (by decide) h
    rw [hnn]
    exact decodeFamilyE_isOk_congr ..
  case h_16 =>
    have hf : fieldF1 c = 0xF := by clear h hf1; generalize fieldF1 c = f at *; revert f; decide
    have hnn : fieldNN w = fieldNN c := extractLsb'_eq_of_and_familyMask_eq hf (by decide) h
    rw [hnn]
    exact decodeFamilyF_isOk_congr ..
  -- every word of the other families decodes
  all_goals rfl

/-! ## The rows of the opcode map -/

theorem mask_eq_familyMask : ∀ row ∈ opcodeMap, row.mask = familyMask (fieldF1 row.code) := by decide

theorem code_isOk : ∀ row ∈ opcodeMap, (decodeWord row.code).isOk = true := by decide

/-- Two rows whose codes agree on the bits that both masks cover are one row (R55: "Rows do not overlap"). -/
theorem row_eq_of_code_and_mask_eq : ∀ row ∈ opcodeMap, ∀ row' ∈ opcodeMap,
    row.code &&& row'.mask = row'.code &&& row.mask → row = row' := by decide

/-- The word of every instruction selects that instruction's row. -/
theorem encode_selects_row : ∀ i, Laws.RowMatch.Statement i
  | .nop => Laws.RowMatch.nop
  | .cls => Laws.RowMatch.cls
  | .ret => Laws.RowMatch.ret
  | .jp _ => Laws.RowMatch.jp _
  | .call _ => Laws.RowMatch.call _
  | .seImm _ _ => Laws.RowMatch.seImm _ _
  | .sneImm _ _ => Laws.RowMatch.sneImm _ _
  | .seReg _ _ => Laws.RowMatch.seReg _ _
  | .ldImm _ _ => Laws.RowMatch.ldImm _ _
  | .addImm _ _ => Laws.RowMatch.addImm _ _
  | .ldReg _ _ => Laws.RowMatch.ldReg _ _
  | .orReg _ _ => Laws.RowMatch.orReg _ _
  | .andReg _ _ => Laws.RowMatch.andReg _ _
  | .xorReg _ _ => Laws.RowMatch.xorReg _ _
  | .addReg _ _ => Laws.RowMatch.addReg _ _
  | .subReg _ _ => Laws.RowMatch.subReg _ _
  | .shr _ _ => Laws.RowMatch.shr _ _
  | .subnReg _ _ => Laws.RowMatch.subnReg _ _
  | .shl _ _ => Laws.RowMatch.shl _ _
  | .sneReg _ _ => Laws.RowMatch.sneReg _ _
  | .ldI _ => Laws.RowMatch.ldI _
  | .jpV0 _ => Laws.RowMatch.jpV0 _
  | .rnd _ _ => Laws.RowMatch.rnd _ _
  | .drw _ _ _ => Laws.RowMatch.drw _ _ _
  | .skp _ => Laws.RowMatch.skp _
  | .sknp _ => Laws.RowMatch.sknp _
  | .ldVxDt _ => Laws.RowMatch.ldVxDt _
  | .ldVxK _ => Laws.RowMatch.ldVxK _
  | .ldDtVx _ => Laws.RowMatch.ldDtVx _
  | .ldStVx _ => Laws.RowMatch.ldStVx _
  | .addI _ => Laws.RowMatch.addI _
  | .ldF _ => Laws.RowMatch.ldF _
  | .ldB _ => Laws.RowMatch.ldB _
  | .storeRegs _ => Laws.RowMatch.storeRegs _
  | .loadRegs _ => Laws.RowMatch.loadRegs _

theorem row_of_decodeWord {w : Word} {i : Instr} (h : decodeWord w = .ok i) :
    ∃ row, opcodeMap[i.rowNumber]? = some row ∧ w &&& row.mask = row.code := by
  obtain rfl := encode_of_decodeWord h
  exact encode_selects_row i

theorem exists_of_isOk {ε α : Type} {r : Except ε α} (h : r.isOk = true) : ∃ a, r = .ok a := by
  cases r with
  | ok a => exact ⟨a, rfl⟩
  | error e => cases h

/-- A row's code decodes, and so does every word that agrees with it under the row's mask. -/
theorem decodeWord_of_selects {w : Word} {row : OpcodeRow} (hrow : row ∈ opcodeMap) (h : w &&& row.mask = row.code) :
    ∃ i, decodeWord w = .ok i := by
  have hcode : w &&& row.mask = row.code &&& row.mask := by rw [← h, BitVec.and_assoc, BitVec.and_self]
  rw [mask_eq_familyMask row hrow] at hcode
  exact exists_of_isOk ((decodeWord_isOk_congr hcode).trans (code_isOk row hrow))

theorem row_eq_of_selects {w : Word} {row row' : OpcodeRow} (hrow : row ∈ opcodeMap) (hrow' : row' ∈ opcodeMap)
    (h : w &&& row.mask = row.code) (h' : w &&& row'.mask = row'.code) : row = row' := by
  refine row_eq_of_code_and_mask_eq row hrow row' hrow' ?_
  rw [← h, ← h', BitVec.and_assoc, BitVec.and_assoc, BitVec.and_comm row.mask]

end Sys2Proof

namespace Sys2Proof.Machine

/-! ## A tick on an illegal word -/

theorem tickBody_of_decode_error (run : Instr → State → Res State) {s : State} {e : DecodeError} (hh : s.halted = false)
    (hpc : s.pc.toNat ≤ 4094) (hd : decodeWord (wordAtPc s) = .error e) :
    tickBody run s = .fault .illegalInstruction := by
  rw [wordAtPc] at hd
  simp [tickBody, hh, fetch_eq_next.mpr ⟨hpc, rfl⟩, hd, raise]

/-! ## Writes to different registers commute -/

theorem setReg_comm (s : State) {x y : Nibble} (a b : Byte) (h : x ≠ y) :
    (s.setReg x a).setReg y b = (s.setReg y b).setReg x a := by
  have hv : x.toNat ≠ y.toNat := fun e => h (BitVec.eq_of_toNat_eq e)
  simp only [State.setReg, Vector.set_comm _ _ hv]

theorem writeWithFlag_setReg_of_ne (s : State) {x y : Nibble} (r b : Byte) (f : Bool) (hx : y ≠ x) (hf : y ≠ 0xF) :
    writeWithFlag (s.setReg y b) x r f = (writeWithFlag s x r f).setReg y b := by
  rw [writeWithFlag, writeWithFlag, setReg_comm s b r hx, setReg_comm _ b _ hf]

theorem execShr_setReg_of_ne (s : State) {x y : Nibble} (y' : Nibble) (b : Byte) (hx : y ≠ x) (hf : y ≠ 0xF) :
    execShr x y' (s.setReg y b) = andThen (execShr x y' s) fun t => .next (t.setReg y b) := by
  simp only [execShr, andThen_next, reg_setReg_of_ne s b hx.symm, writeWithFlag_setReg_of_ne s _ b _ hx hf]

theorem execShl_setReg_of_ne (s : State) {x y : Nibble} (y' : Nibble) (b : Byte) (hx : y ≠ x) (hf : y ≠ 0xF) :
    execShl x y' (s.setReg y b) = andThen (execShl x y' s) fun t => .next (t.setReg y b) := by
  simp only [execShl, andThen_next, reg_setReg_of_ne s b hx.symm, writeWithFlag_setReg_of_ne s _ b _ hx hf]

end Sys2Proof.Machine

namespace Sys2Proof

open Machine

/-- Settles O8: a word that decodes encodes its instruction, whose word selects its row; a word that selects a row
decodes as the row's code does; the codes of two rows differ on the bits that both masks cover. -/
theorem decoderFollowsOpcodeMap : Obligations.DecoderFollowsOpcodeMap :=
  ⟨rfl, fun _ _ h => row_of_decodeWord h, fun _ _ hrow h => decodeWord_of_selects hrow h,
    fun _ _ hrow _ hrow' h h' => row_eq_of_selects hrow hrow' h h'⟩

/-- Settles O13: a word that decoded would select a row of the map. -/
theorem unmatchedWordIsFatal : Obligations.UnmatchedWordIsFatal := by
  intro s hh hpc hno
  cases hd : decodeWord (wordAtPc s) with
  | error e => exact tickBody_of_decode_error exec hh hpc hd
  | ok i =>
    obtain ⟨row, hrow, hsel⟩ := row_of_decodeWord hd
    exact absurd hsel (hno row (List.mem_of_getElem? hrow))

/-- Settles O32: the shifts read Vx and write Vx and VF, and the write of Vy commutes with both. -/
theorem shiftsDoNotReadVy : Obligations.ShiftsDoNotReadVy := by
  intro x y y' b s hx hf
  refine ⟨rfl, rfl, fun t h => ?_, fun t h => ?_⟩
  · exact (execShr_setReg_of_ne s y b hx hf).trans (congrArg (andThen · _) h)
  · exact (execShl_setReg_of_ne s y b hx hf).trans (congrArg (andThen · _) h)

end Sys2Proof

end

/-! PROOFS. The family of spec/40_control_flow.md: a jump, a call and a return (R72 to R76), and the invariant that every
step keeps. -/

section

namespace Sys2Proof

/-! ## The word of an instruction -/

theorem decodeWord_encode (i : Instr) : decodeWord (encode i) = .ok i := by
  cases i with
  -- family 0: three single words
  | nop | cls | ret => rfl
  -- the family alone selects the row, or the family with n = 0
  | jp | call | ldI | jpV0 | seImm | sneImm | ldImm | addImm | rnd | drw | seReg | sneReg => simp [encode, decodeWord]
  -- the sub-opcode n
  | ldReg | orReg | andReg | xorReg | addReg | subReg | shr | subnReg | shl =>
    simp [encode, decodeWord, decodeFamily8]
  -- the sub-opcode nn
  | skp | sknp => simp [encode, decodeWord, decodeFamilyE]
  | ldVxDt | ldVxK | ldDtVx | ldStVx | addI | ldF | ldB | storeRegs | loadRegs =>
    simp [encode, decodeWord, decodeFamilyF]

/-- Exactly one word decodes to an instruction: the word it encodes to. -/
theorem decodeWord_eq_ok_iff {w : Word} {i : Instr} : decodeWord w = .ok i ↔ w = encode i := by
  constructor
  · intro h
    exact (encode_of_decodeWord h).symm
  · rintro rfl
    exact decodeWord_encode i

theorem hasWord_of_toNat_encode {i : Instr} {value : Nat} (h : (encode i).toNat = value) : HasWord i value :=
  fun _ hw => decodeWord_eq_ok_iff.mpr (BitVec.eq_of_toNat_eq (hw.trans h.symm))

end Sys2Proof

namespace Sys2Proof.Machine

/-! ## Operands -/

@[simp] theorem toNat_addr16 (nnn : Addr12) : (addr16 nnn).toNat = nnn.toNat :=
  BitVec.toNat_setWidth_of_le (by decide)

/-- The sum of a byte and an address field needs no reduction (R76). -/
theorem toNat_byte16_add_addr16 (b : Byte) (nnn : Addr12) :
    (byte16 b + addr16 nnn).toNat = b.toNat + nnn.toNat := by
  have hb : (byte16 b).toNat = b.toNat := BitVec.toNat_setWidth_of_le (by decide)
  rw [BitVec.toNat_add, hb, toNat_addr16]
  omega

/-! ## CALL and RET -/

theorem execCall_eq_next {nnn : Addr12} {s t : State} : execCall nnn s = .next t ↔
    ∃ h : s.sp.toNat < 16,
      t = { s with pc := addr16 nnn, sp := s.sp + 1, stack := s.stack.set s.sp.toNat s.pc h } := by
  simp only [execCall, andThen_eq_next, push_eq_next]
  constructor
  · rintro ⟨_, ⟨h, rfl⟩, ⟨⟩⟩
    exact ⟨h, rfl⟩
  · rintro ⟨h, rfl⟩
    exact ⟨_, ⟨h, rfl⟩, rfl⟩

theorem execCall_of_full {nnn : Addr12} {s : State} (h : 16 ≤ s.sp.toNat) :
    execCall nnn s = .fault .stackOverflow :=
  andThen_eq_fault.mpr (.inl (push_eq_fault.mpr ⟨h, rfl⟩))

theorem execRet_eq_next {s t : State} : execRet s = .next t ↔
    ∃ h : 1 ≤ s.sp.toNat ∧ s.sp.toNat ≤ 16,
      t = { s with pc := s.stack[s.sp.toNat - 1], sp := s.sp - 1 } := by
  have hne : s.sp ≠ 0 ↔ 1 ≤ s.sp.toNat := by bv_omega
  have hsub : 1 ≤ s.sp.toNat → (s.sp - 1).toNat = s.sp.toNat - 1 := fun h => BitVec.toNat_sub_of_le h
  simp only [execRet, andThen_eq_next, pop_eq_next, hne]
  constructor
  · rintro ⟨_, ⟨h1, h, rfl⟩, ⟨⟩⟩
    refine ⟨⟨h1, by rw [hsub h1] at h; omega⟩, ?_⟩
    simp only [hsub h1]
  · rintro ⟨⟨h1, h16⟩, rfl⟩
    refine ⟨_, ⟨h1, by rw [hsub h1]; omega, rfl⟩, ?_⟩
    simp only [hsub h1]

theorem execRet_of_empty {s : State} (h : s.sp = 0) : execRet s = .fault .stackUnderflow :=
  andThen_eq_fault.mpr (.inl (pop_eq_fault.mpr ⟨h, rfl⟩))

/-! ## Other instructions with more than one outcome -/

/-- Fx65 writes registers alone. -/
theorem execLoadRegs_eq_next {x : Nibble} {s t : State} (h : execLoadRegs x s = .next t) :
    ∃ v, t = { s with v := v } := by
  obtain ⟨bs, -, ht⟩ := andThen_eq_next.mp h
  cases ht
  exact ⟨_, writeRegs_others bs 0 s⟩

/-! ## The parts of the state the invariant speaks of -/

/-- The invariant speaks of memory, the stack, pc and the halt alone. -/
theorem inv_congr {s t : State} (hs : Inv s) (hmem : t.mem = s.mem) (hsp : t.sp = s.sp) (hpc : t.pc = s.pc)
    (hstack : t.stack = s.stack) (hcause : t.cause = s.cause) (hhalted : t.halted = s.halted) : Inv t where
  memory := hmem ▸ hs.memory
  depth := hsp ▸ hs.depth
  pcBound := hpc ▸ hs.pcBound
  returns := by
    unfold ReturnAddresses
    rw [hsp, hstack]
    exact hs.returns
  causeCode := hcause ▸ hs.causeCode
  haltCause := by rw [hcause, hhalted]; exact hs.haltCause

theorem inv_with_pc {s : State} {w : Word} (hs : Inv s) (hw : w.toNat ≤ 0x10FE) : Inv { s with pc := w } :=
  { hs with pcBound := hw }

theorem inv_with_mem {s : State} {m : Memory} (hs : Inv s) (hm : m.wf) : Inv { s with mem := m } :=
  { hs with memory := hm }

/-- Pushing a return address keeps the invariant: the entry written is the one that becomes valid. -/
theorem inv_with_push {s : State} {w : Word} (hs : Inv s) (hsp : s.sp.toNat < 16) (hlo : 2 ≤ w.toNat)
    (hhi : w.toNat ≤ 4096) : Inv { s with sp := s.sp + 1, stack := s.stack.set s.sp.toNat w hsp } := by
  have hdepth : (s.sp + 1).toNat = s.sp.toNat + 1 := by bv_omega
  refine { hs with depth := hdepth.trans_le hsp, returns := fun k (hk : k.val < (s.sp + 1).toNat) => ?_ }
  by_cases hkeq : s.sp.toNat = k.val
  · simp [hkeq, hlo, hhi]
  · simpa [Vector.getElem_set_ne, hkeq] using hs.returns k (by omega)

/-- Dropping valid entries keeps the invariant. -/
theorem inv_with_sp_of_le {s : State} {w : Word} (hs : Inv s) (hw : w.toNat ≤ s.sp.toNat) : Inv { s with sp := w } :=
  { hs with depth := hw.trans hs.depth, returns := fun k hk => hs.returns k (lt_of_lt_of_le hk hw) }

/-! ## What the state that an instruction starts from satisfies -/

/-- The invariant, on a state whose pc fetch has moved past an instruction (R36): pc is 2 to 4096. -/
structure FetchedInv (s : State) : Prop where
  inv : Inv s
  pcLow : 2 ≤ s.pc.toNat
  pcHigh : s.pc.toNat ≤ 4096

theorem fetchedInv_of_inv {s : State} (hs : Inv s) (hpc : s.pc.toNat ≤ 4094) : FetchedInv { s with pc := s.pc + 2 } := by
  have hpc2 : (s.pc + 2).toNat = s.pc.toNat + 2 := by bv_omega
  exact ⟨inv_with_pc hs (by omega), show 2 ≤ (s.pc + 2).toNat by omega, show (s.pc + 2).toNat ≤ 4096 by omega⟩

theorem inv_skipIf {s : State} (hs : FetchedInv s) (c : Bool) : Inv (skipIf c s) := by
  have hpc := hs.pcHigh
  cases c with
  | false => exact hs.inv
  | true => exact inv_with_pc hs.inv (by bv_omega)

theorem inv_storeBytes {bs : List Byte} {a : Nat} {s t : State} (hs : Inv s) (h : storeBytes bs a s = .next t) :
    Inv t := by
  obtain ⟨rfl | hfit, rfl⟩ := storeBytes_eq_next.mp h
  · exact hs
  · exact inv_with_mem hs (Memory.writeBytes_wf bs a s.mem hs.memory hfit)

theorem inv_execCall {nnn : Addr12} {s t : State} (hs : FetchedInv s) (h : execCall nnn s = .next t) : Inv t := by
  obtain ⟨hsp, rfl⟩ := execCall_eq_next.mp h
  have hnnn := nnn.isLt
  exact inv_with_pc (inv_with_push hs.inv hsp hs.pcLow hs.pcHigh) (by rw [toNat_addr16]; omega)

/-- The entry popped is a valid one, so pc becomes a return address. -/
theorem inv_execRet {s t : State} (hs : Inv s) (h : execRet s = .next t) : Inv t := by
  obtain ⟨⟨h1, h16⟩, rfl⟩ := execRet_eq_next.mp h
  obtain ⟨-, hentry⟩ := hs.returns ⟨s.sp.toNat - 1, by omega⟩ (Nat.sub_one_lt_of_le h1 le_rfl)
  have hsp : (s.sp - 1).toNat ≤ s.sp.toNat := by bv_omega
  exact inv_with_pc (inv_with_sp_of_le hs hsp) (hentry.trans (by decide))

/-- Every instruction, run from a state that fetch left, keeps the invariant. -/
theorem inv_exec {i : Instr} {s t : State} (hs : FetchedInv s) (h : exec i s = .next t) : Inv t := by
  have hinv := hs.inv
  cases i with
  -- registers, I, the timers, the pixels or the count of draws are written
  | nop | cls | ldImm | addImm | ldReg | orReg | andReg | xorReg | addReg | subReg | shr | subnReg | shl | ldI | rnd
  | ldVxDt | ldDtVx | ldStVx | addI | ldF =>
    cases h
    exact inv_congr hinv rfl rfl rfl rfl rfl rfl
  | drw =>
    obtain ⟨_, _, rfl⟩ := execDrw_eq_next h
    exact inv_congr hinv rfl rfl rfl rfl rfl rfl
  | loadRegs =>
    obtain ⟨_, rfl⟩ := execLoadRegs_eq_next h
    exact inv_congr hinv rfl rfl rfl rfl rfl rfl
  -- memory is written
  | ldB | storeRegs => exact inv_storeBytes hinv h
  -- pc moves by 2 more, or back onto the instruction
  | seImm | sneImm | seReg | sneReg =>
    cases h
    exact inv_skipIf hs _
  | skp =>
    obtain ⟨c, rfl⟩ := execSkp_eq_next h
    exact inv_skipIf hs c
  | sknp =>
    obtain ⟨c, rfl⟩ := execSknp_eq_next h
    exact inv_skipIf hs c
  | ldVxK =>
    obtain ⟨_, rfl⟩ | rfl := execLdVxK_eq_next h
    · exact inv_congr hinv rfl rfl rfl rfl rfl rfl
    · have hlo := hs.pcLow
      have hhi := hs.pcHigh
      exact inv_with_pc hinv (by bv_omega)
  -- pc is loaded: nnn, V0 + nnn with 0xFF + 0xFFF = 0x10FE at most, or a return address
  | jp nnn =>
    cases h
    have hnnn := nnn.isLt
    exact inv_with_pc hinv (by rw [toNat_addr16]; omega)
  | jpV0 nnn =>
    cases h
    have hnnn := nnn.isLt
    have hv0 := (s.reg 0).isLt
    exact inv_with_pc hinv (by rw [toNat_byte16_add_addr16]; omega)
  | call => exact inv_execCall hs h
  | ret => exact inv_execRet hinv h

/-- A tick keeps the invariant where its execute half does. -/
theorem inv_tickBody {run : Instr → State → Res State} {s t : State}
    (hrun : ∀ i u, FetchedInv u → run i u = .next t → Inv t) (hs : Inv s) (h : tickBody run s = .next t) : Inv t := by
  obtain ⟨-, hpc, i, -, hi⟩ := tickBody_eq_next h
  exact hrun i _ (fetchedInv_of_inv hs hpc) hi

end Sys2Proof.Machine

namespace Sys2Proof

open Machine

/-! ## Frames of the stack -/

/-- A pop keeps every part but pc and SP: the entries stay in place. -/
theorem keepsAllBut_with_pc_sp (s : State) (pc sp : Word) :
    KeepsAllBut (fun p => p = .pc ∨ p = .sp) s { s with pc := pc, sp := sp } := by
  intro p hp
  cases p with
  | pc => exact absurd (.inl rfl) hp
  | sp => exact absurd (.inr rfl) hp
  | halt => exact ⟨rfl, rfl⟩
  | _ => rfl

/-- A push that jumps keeps every part but pc, SP and the entry written. -/
theorem keepsAllBut_with_pc_sp_entry (s : State) (pc sp w : Word) {n : Nat} (hn : n < 16) :
    KeepsAllBut (fun p => p = .pc ∨ p = .sp ∨ p = .entry ⟨n, hn⟩) s
      { s with pc := pc, sp := sp, stack := s.stack.set n w hn } := by
  intro p hp
  cases p with
  | pc => exact absurd (.inl rfl) hp
  | sp => exact absurd (.inr (.inl rfl)) hp
  | entry k =>
    have hk : n ≠ k.val := by
      rintro rfl
      exact hp (.inr (.inr rfl))
    exact Vector.getElem_set_ne hn k.isLt hk
  | halt => exact ⟨rfl, rfl⟩
  | _ => rfl

/-- Settles O16: fetch leaves pc 2 to 4096, from where each instruction keeps the invariant. -/
theorem stepKeepsInv : Obligations.StepKeepsInv :=
  fun _ _ hs h => inv_tickBody (fun _ _ => inv_exec) hs h

/-- Settles O21: the pop gives the entry below SP, which after a CALL is the one the CALL wrote. -/
theorem retPopsIntoPc : Obligations.RetPopsIntoPc := by
  refine ⟨fun w => decodeWord_eq_ok_iff, fun s => ⟨fun hsp => ?_, execRet_of_empty⟩, ?_⟩
  · obtain ⟨h1, h16⟩ := hsp
    refine ⟨_, execRet_eq_next.mpr ⟨⟨h1, h16⟩, rfl⟩, rfl, BitVec.toNat_sub_of_le h1, fun hret => ?_,
      keepsAllBut_with_pc_sp s _ _⟩
    exact hret ⟨s.sp.toNat - 1, by omega⟩ (Nat.sub_one_lt_of_le h1 le_rfl)
  · intro nnn s t t' hcall hsp hentry
    obtain ⟨hlt, rfl⟩ := execCall_eq_next.mp hcall
    have hsp : t'.sp = s.sp + 1 := hsp
    have hn : t'.sp.toNat = s.sp.toNat + 1 := by bv_omega
    have hentry : t'.stack[s.sp.toNat] = s.pc :=
      (hentry ⟨s.sp.toNat, hlt⟩ rfl).trans (Vector.getElem_set_self hlt)
    refine ⟨_, execRet_eq_next.mpr ⟨by omega, rfl⟩, ?_, ?_⟩
    · simpa only [hn, Nat.add_sub_cancel] using hentry
    · simp [hsp]

/-- Settles O17: one word encodes NOP. -/
theorem nopOnlyAdvances : Obligations.NopOnlyAdvances := ⟨fun _ => decodeWord_eq_ok_iff, fun _ => rfl⟩

/-- Settles O18: nnn widened with zeros has the value nnn. -/
theorem jpLoadsPc : Obligations.JpLoadsPc := fun nnn s =>
  ⟨hasWord_of_toNat_encode (toNat_formA 0x1 nnn), _, rfl, toNat_addr16 nnn, keepsAllBut_with_pc s _⟩

/-- Settles O19: V0 + nnn fits the 16 bits of pc. -/
theorem jpV0AddsV0 : Obligations.JpV0AddsV0 := fun nnn s =>
  ⟨hasWord_of_toNat_encode (toNat_formA 0xB nnn), _, rfl, toNat_byte16_add_addr16 _ nnn, keepsAllBut_with_pc s _⟩

/-- Settles O20: the push completes exactly where SP is below 16. -/
theorem callPushesAndJumps : Obligations.CallPushesAndJumps := by
  intro nnn s
  refine ⟨hasWord_of_toNat_encode (toNat_formA 0x2 nnn), fun hsp => ?_, execCall_of_full⟩
  refine ⟨_, execCall_eq_next.mpr ⟨hsp, rfl⟩, ?_, ?_, toNat_addr16 nnn, keepsAllBut_with_pc_sp_entry s _ _ _ hsp⟩
  · exact Vector.getElem_set_self hsp
  · show (s.sp + 1).toNat = s.sp.toNat + 1
    bv_omega

end Sys2Proof

end

/-! PROOFS. The family of spec/41_skips.md: the skips on a register against an immediate and on two registers (R81 to R84). -/

section

namespace Sys2Proof

/-! ## The words of the formats XI and XY, as sums of their fields (R52) -/

theorem hasWord_of_encode_formXI {i : Instr} {a x : Nibble} {nn : Byte} (h : encode i = formXI a x nn) :
    HasWord i (a.toNat * 4096 + 256 * x.toNat + nn.toNat) :=
  hasWord_of_toNat_encode (by rw [h, toNat_formXI, Nat.mul_comm 256])

theorem hasWord_of_encode_formXY {i : Instr} {a x y n : Nibble} (h : encode i = formXY a x y n) :
    HasWord i (a.toNat * 4096 + n.toNat + 256 * x.toNat + 16 * y.toNat) :=
  hasWord_of_toNat_encode (by rw [h, toNat_formXY]; omega)

/-! ## The family and the field n of a word, as numbers (R51) -/

theorem toNat_fieldF1 (w : Word) : (fieldF1 w).toNat = w.toNat / 4096 := by
  have hw := w.isLt
  rw [fieldF1, BitVec.extractLsb'_toNat, Nat.shiftRight_eq_div_pow]
  omega

theorem toNat_fieldN (w : Word) : (fieldN w).toNat = w.toNat % 16 := BitVec.extractLsb'_toNat 0 4 w

theorem fieldF1_eq_iff {w : Word} {a : Nibble} : fieldF1 w = a ↔ w.toNat / 4096 = a.toNat := by
  rw [← BitVec.toNat_inj, toNat_fieldF1]

theorem fieldN_eq_iff {w : Word} {n : Nibble} : fieldN w = n ↔ w.toNat % 16 = n.toNat := by
  rw [← BitVec.toNat_inj, toNat_fieldN]

/-! ## The illegal words of the families 0x5 and 0x9 (R57) -/

theorem decodeWord_of_5xyn {w : Word} (hf : fieldF1 w = 0x5) (hn : fieldN w ≠ 0) :
    decodeWord w = .error .illegal5xyn := by
  rw [decodeWord, hf]
  exact if_neg hn

theorem decodeWord_of_9xyn {w : Word} (hf : fieldF1 w = 0x9) (hn : fieldN w ≠ 0) :
    decodeWord w = .error .illegal9xyn := by
  rw [decodeWord, hf]
  exact if_neg hn

end Sys2Proof

namespace Sys2Proof.Machine

/-! ## What a skip does (R80) -/

/-- A skip keeps every part but pc, taken or not. -/
theorem keepsAllBut_skipIf (c : Bool) (s : State) : KeepsAllBut (· = .pc) s (skipIf c s) := by
  cases c with
  | false => exact keepsAllBut_with_pc s s.pc
  | true => exact keepsAllBut_with_pc s (s.pc + 2)

theorem toNat_skipIf_pc (c : Bool) (s : State) :
    (skipIf c s).pc.toNat = if c then (s.pc.toNat + 2) % 65536 else s.pc.toNat := by
  cases c with
  | false => rfl
  | true => exact BitVec.toNat_add s.pc 2

theorem toNat_skipIf_beq_pc (a b : Byte) (s : State) : (skipIf (a == b) s).pc.toNat =
    if a.toNat = b.toNat then (s.pc.toNat + 2) % 65536 else s.pc.toNat := by
  simp only [toNat_skipIf_pc, beq_iff_eq, BitVec.toNat_inj]

theorem toNat_skipIf_bne_pc (a b : Byte) (s : State) : (skipIf (a != b) s).pc.toNat =
    if a.toNat = b.toNat then s.pc.toNat else (s.pc.toNat + 2) % 65536 := by
  simp only [toNat_skipIf_pc, bne_iff_ne, BitVec.toNat_inj, ite_not]

end Sys2Proof.Machine

namespace Sys2Proof

open Machine

/-- Settles O23: both are one skip, on Vx = nn and on its negation. -/
theorem immediateSkips : Obligations.ImmediateSkips := fun x nn s =>
  ⟨hasWord_of_encode_formXI (a := 0x3) rfl, hasWord_of_encode_formXI (a := 0x4) rfl,
    ⟨_, rfl, keepsAllBut_skipIf _ s, toNat_skipIf_beq_pc (s.reg x) nn s⟩,
    ⟨_, rfl, keepsAllBut_skipIf _ s, toNat_skipIf_bne_pc (s.reg x) nn s⟩⟩

/-- Settles O24: both are one skip, on Vx = Vy and on its negation; a word of these families decodes only with n = 0. -/
theorem registerSkips : Obligations.RegisterSkips := by
  refine ⟨fun w hf hn i hi => ?_, fun x y s => ⟨?_, ?_, ?_, ?_⟩⟩
  · have hn : fieldN w ≠ 0 := fun h => hn (fieldN_eq_iff.mp h)
    rcases hf with hf | hf
    · cases (decodeWord_of_5xyn (fieldF1_eq_iff.mpr hf) hn).symm.trans hi
    · cases (decodeWord_of_9xyn (fieldF1_eq_iff.mpr hf) hn).symm.trans hi
  · exact hasWord_of_encode_formXY (a := 0x5) (n := 0x0) rfl
  · exact hasWord_of_encode_formXY (a := 0x9) (n := 0x0) rfl
  · exact ⟨_, rfl, keepsAllBut_skipIf _ s, toNat_skipIf_beq_pc (s.reg x) (s.reg y) s⟩
  · exact ⟨_, rfl, keepsAllBut_skipIf _ s, toNat_skipIf_bne_pc (s.reg x) (s.reg y) s⟩

end Sys2Proof

end

/-! PROOFS. The family of spec/42_alu.md: loads, addition, subtraction, logic and shifts with their flags (R90 to R102), and
the random byte (R103). -/

section

namespace Sys2Proof

open Machine

/-! ## Frames, put together from those of single updates -/

theorem Part.same_trans {p : Part} {s t u : State} (h : p.same s t) (h' : p.same t u) : p.same s u := by
  cases p with
  | halt => exact ⟨h'.1.trans h.1, h'.2.trans h.2⟩
  | _ => exact Eq.trans h' h

/-- Two updates one after the other keep what both keep. -/
theorem keepsAllBut_trans {P Q : Part → Prop} {s t u : State} (h : KeepsAllBut P s t) (h' : KeepsAllBut Q t u) :
    KeepsAllBut (fun p => P p ∨ Q p) s u := by
  intro p hp
  obtain ⟨hP, hQ⟩ := not_or.mp hp
  exact Part.same_trans (h p hP) (h' p hQ)

/-- A write to a register keeps every part but that register. -/
theorem keepsAllBut_setReg (s : State) (x : Nibble) (b : Byte) : KeepsAllBut (· = .reg x) s (s.setReg x b) := by
  intro p hp
  cases p with
  | reg k => exact reg_setReg_of_ne s b fun h => hp (congrArg Part.reg h)
  | halt => exact ⟨rfl, rfl⟩
  | _ => rfl

theorem keepsAllBut_with_draws (s : State) (n : Nat) : KeepsAllBut (· = .draws) s { s with draws := n } := by
  intro p hp
  cases p with
  | draws => exact absurd rfl hp
  | halt => exact ⟨rfl, rfl⟩
  | _ => rfl

/-- The two writes of a flag-writing instruction (R90). -/
theorem keepsAllBut_writeWithFlag (s : State) (x : Nibble) (b : Byte) (f : Bool) :
    KeepsAllBut (fun p => p = .reg x ∨ p = .reg 0xF) s (writeWithFlag s x b f) :=
  keepsAllBut_trans (keepsAllBut_setReg s x b) (keepsAllBut_setReg _ 0xF _)

theorem keepsAllBut_drawInto (r : Byte) (x : Nibble) (nn : Byte) (s : State) :
    KeepsAllBut (fun p => p = .reg x ∨ p = .draws) s (drawInto r x nn s) :=
  keepsAllBut_trans (keepsAllBut_setReg s x _) (keepsAllBut_with_draws _ _)

/-- The same for a whole TICK, whose fetch moves pc. -/
theorem keepsAllBut_drawInto_with_pc (r : Byte) (x : Nibble) (nn : Byte) (s : State) (w : Word) :
    KeepsAllBut (fun p => p = .reg x ∨ p = .draws ∨ p = .pc) s (drawInto r x nn { s with pc := w }) :=
  keepsAllBut_trans (keepsAllBut_setReg s x _)
    (keepsAllBut_trans (keepsAllBut_with_draws _ _) (keepsAllBut_with_pc _ w))

end Sys2Proof

namespace Sys2Proof.Machine

/-! ## The result and the flag of a flag-writing instruction -/

/-- Where Vx is not VF, the flag written last leaves the result in Vx. -/
theorem writeWithFlag_reg_dest (s : State) {x : Nibble} (b : Byte) (f : Bool) (hx : x ≠ 0xF) :
    (writeWithFlag s x b f).reg x = b :=
  (writeWithFlag_reg s x x b f hx).trans (if_pos rfl)

/-- What the two writes leave: the flag's value in VF, a result with the property `P` in Vx unless it is VF, and the rest. -/
theorem writeWithFlag_post {s : State} {x : Nibble} {b v : Byte} {f : Bool} (P : Byte → Prop) (hv : flagByte f = v)
    (hb : P b) : (writeWithFlag s x b f).reg 0xF = v ∧ (x ≠ 0xF → P ((writeWithFlag s x b f).reg x)) ∧
      KeepsAllBut (fun p => p = .reg x ∨ p = .reg 0xF) s (writeWithFlag s x b f) := by
  refine ⟨(writeWithFlag_reg_flag s x b f).trans hv, fun hx => ?_, keepsAllBut_writeWithFlag s x b f⟩
  rw [writeWithFlag_reg_dest s b f hx]
  exact hb

theorem flagByte_carryOf (a b : Byte) : flagByte (carryOf a b) = if a.toNat + b.toNat > 255 then 1 else 0 := by
  simp only [flagByte, carryOf, decide_eq_true_eq]

theorem flagByte_notBorrowOf (a b : Byte) : flagByte (notBorrowOf a b) = if a.toNat < b.toNat then 0 else 1 := by
  simp only [flagByte, notBorrowOf, Bool.not_eq_true', decide_eq_false_iff_not, ite_not]

/-- A one-bit flag is written as the value of that bit (R12). -/
theorem flagByte_getLsbD (a : Byte) (i : Nat) : flagByte (a.getLsbD i) = BitVec.ofNat 8 (a.toNat / 2 ^ i % 2) := by
  rw [BitVec.getLsbD, Nat.testBit_eq_decide_div_mod_eq]
  obtain h | h := Nat.mod_two_eq_zero_or_one (a.toNat / 2 ^ i) <;> simp [h, flagByte]

theorem flagByte_lowBitOf (a : Byte) : flagByte (lowBitOf a) = BitVec.ofNat 8 (a.toNat % 2) := by
  rw [lowBitOf, flagByte_getLsbD, Nat.pow_zero, Nat.div_one]

theorem flagByte_highBitOf (a : Byte) : flagByte (highBitOf a) = BitVec.ofNat 8 (a.toNat / 128) := by
  have hlt : a.toNat / 128 < 2 := by omega
  exact (flagByte_getLsbD a 7).trans (congrArg _ (Nat.mod_eq_of_lt hlt))

/-! ## Arithmetic modulo 256 -/

theorem toNat_sub_eq_emod (a b : Byte) : ((a - b).toNat : Int) = (a.toNat - b.toNat : Int) % 256 := by
  rw [BitVec.toNat_sub]
  omega

theorem toNat_shiftRight_one (a : Byte) : (a >>> 1).toNat = a.toNat / 2 := by
  rw [BitVec.toNat_ushiftRight, Nat.shiftRight_eq_div_pow, Nat.pow_one]

theorem toNat_shiftLeft_one (a : Byte) : (a <<< 1).toNat = a.toNat * 2 % 256 := by
  rw [BitVec.toNat_shiftLeft, Nat.shiftLeft_eq, Nat.pow_one]

/-! ## The random byte -/

theorem drawInto_reg (r : Byte) (x : Nibble) (nn : Byte) (s : State) : (drawInto r x nn s).reg x = r &&& nn :=
  reg_setReg_self _ x _

theorem getLsbD_drawInto_reg (r : Byte) (x : Nibble) (nn : Byte) (s : State) (j : Nat) :
    ((drawInto r x nn s).reg x).getLsbD j = (r.getLsbD j && nn.getLsbD j) := by
  rw [drawInto_reg, BitVec.getLsbD_and]

theorem tickWith_of_fetches_rnd {s : State} {x : Nibble} {nn : Byte} (r : Byte) (hh : s.halted = false)
    (hf : Fetches s (.rnd x nn)) : tickWith r s = .next (drawInto r x nn { s with pc := s.pc + 2 }) := by
  obtain ⟨hpc, hd⟩ := hf
  exact tickBody_of_decode _ hh hpc hd

end Sys2Proof.Machine

namespace Sys2Proof

open Machine

/-- Settles O25: one register is written, and it reads back as the value written. -/
theorem registerLoads : Obligations.RegisterLoads := fun x y nn s =>
  ⟨hasWord_of_encode_formXI (a := 0x6) rfl, hasWord_of_encode_formXY (a := 0x8) (n := 0x0) rfl,
    ⟨_, rfl, reg_setReg_self s x nn, keepsAllBut_setReg s x nn⟩,
    ⟨_, rfl, reg_setReg_self s x (s.reg y), keepsAllBut_setReg s x _⟩⟩

/-- Settles O26: one register is written, with the sum of bytes. -/
theorem addImmediateWraps : Obligations.AddImmediateWraps := fun x nn s =>
  ⟨hasWord_of_encode_formXI (a := 0x7) rfl, _, rfl,
    (congrArg BitVec.toNat (reg_setReg_self s x _)).trans (BitVec.toNat_add _ nn), keepsAllBut_setReg s x _⟩

/-- Settles O27: one register is written, with the operation on the whole bytes, which acts on each bit. -/
theorem logicBitByBit : Obligations.LogicBitByBit := by
  intro x y s
  refine ⟨?_, ?_, ?_, ?_, ?_, ?_⟩
  · exact hasWord_of_encode_formXY (a := 0x8) (n := 0x1) rfl
  · exact hasWord_of_encode_formXY (a := 0x8) (n := 0x2) rfl
  · exact hasWord_of_encode_formXY (a := 0x8) (n := 0x3) rfl
  · refine ⟨_, rfl, keepsAllBut_setReg s x _, fun j _ => ?_⟩
    rw [reg_setReg_self, BitVec.getLsbD_or]
  · refine ⟨_, rfl, keepsAllBut_setReg s x _, fun j _ => ?_⟩
    rw [reg_setReg_self, BitVec.getLsbD_and]
  · refine ⟨_, rfl, keepsAllBut_setReg s x _, fun j _ => ?_⟩
    rw [reg_setReg_self, BitVec.getLsbD_xor]

/-- Settles O28: the flag written last is the carry. -/
theorem addSetsCarry : Obligations.AddSetsCarry := fun _ _ _ =>
  ⟨hasWord_of_encode_formXY (a := 0x8) (n := 0x4) rfl, _, rfl,
    writeWithFlag_post (fun b => b.toNat = _) (flagByte_carryOf _ _) (BitVec.toNat_add _ _)⟩

/-- Settles O29: the flag written last is the not-borrow of Vx - Vy. -/
theorem subSetsNotBorrow : Obligations.SubSetsNotBorrow := fun _ _ _ =>
  ⟨hasWord_of_encode_formXY (a := 0x8) (n := 0x5) rfl, _, rfl,
    writeWithFlag_post (fun b => (b.toNat : Int) = _) (flagByte_notBorrowOf _ _) (toNat_sub_eq_emod _ _)⟩

/-- Settles O30: as O29, with the operands exchanged in the difference and in its borrow. -/
theorem subnSetsNotBorrow : Obligations.SubnSetsNotBorrow := fun _ _ _ =>
  ⟨hasWord_of_encode_formXY (a := 0x8) (n := 0x7) rfl, _, rfl,
    writeWithFlag_post (fun b => (b.toNat : Int) = _) (flagByte_notBorrowOf _ _) (toNat_sub_eq_emod _ _)⟩

/-- Settles O31: the flag written last is the dropped bit, the remainder by 2 or the quotient by 128. -/
theorem shiftsSetDroppedBit : Obligations.ShiftsSetDroppedBit := fun _ _ _ =>
  ⟨hasWord_of_encode_formXY (a := 0x8) (n := 0x6) rfl, hasWord_of_encode_formXY (a := 0x8) (n := 0xE) rfl,
    ⟨_, rfl, writeWithFlag_post (fun b => b.toNat = _) (flagByte_lowBitOf _) (toNat_shiftRight_one _)⟩,
    ⟨_, rfl, writeWithFlag_post (fun b => b.toNat = _) (flagByte_highBitOf _) (toNat_shiftLeft_one _)⟩⟩

/-- Settles O33: `exec` and TICK both draw into Vx, the one the free byte and the other its input byte. -/
theorem rndMasksDrawnByte : Obligations.RndMasksDrawnByte := by
  intro x nn s
  refine ⟨hasWord_of_encode_formXI (a := 0xC) rfl, ?_, fun r hh hf => ?_⟩
  · exact ⟨_, rfl, rfl, fun j _ => getLsbD_drawInto_reg _ x nn s j, keepsAllBut_drawInto _ x nn s⟩
  · exact ⟨_, tickWith_of_fetches_rnd r hh hf, fun j _ => getLsbD_drawInto_reg r x nn _ j,
      keepsAllBut_drawInto_with_pc r x nn s _⟩

end Sys2Proof

end

/-! PROOFS. The family of spec/43_index_memory.md: the writes of I (R110 to R112), the decimal digits (R113), and the registers
below Vx stored and loaded (R114, R115). -/

section

namespace Sys2Proof

open Machine

/-! ## Words and frames -/

/-- The word of the format X: the sub-opcode is part of the constant (R55). -/
theorem hasWord_of_encode_formX {i : Instr} {a x : Nibble} {nn : Byte} (h : encode i = formXI a x nn) :
    HasWord i (a.toNat * 4096 + nn.toNat + 256 * x.toNat) := by
  rw [Nat.add_right_comm]
  exact hasWord_of_encode_formXI h

/-- A larger set of parts that may change is a weaker frame. -/
theorem keepsAllBut_mono {P Q : Part → Prop} {s t : State} (hPQ : ∀ p, P p → Q p) (h : KeepsAllBut P s t) :
    KeepsAllBut Q s t :=
  fun p hp => h p fun hP => hp (hPQ p hP)

theorem keepsAllBut_with_i (s : State) (w : Word) : KeepsAllBut (· = .index) s { s with i := w } := by
  intro p hp
  cases p with
  | index => exact absurd rfl hp
  | halt => exact ⟨rfl, rfl⟩
  | _ => rfl

/-- Bytes written to V0 up change those registers alone. -/
theorem keepsAllBut_writeRegs (bs : List Byte) (s : State) (hbs : bs.length ≤ 16) :
    KeepsAllBut (fun p => ∃ k : Nibble, k.toNat < bs.length ∧ p = .reg k) s (writeRegs bs 0 s) := by
  intro p hp
  cases p with
  | reg k =>
    refine (writeRegs_reg bs 0 s (by omega) k).trans (dif_neg ?_)
    rintro ⟨-, hk⟩
    exact hp ⟨k, by omega, rfl⟩
  | halt =>
    rw [writeRegs_others]
    exact ⟨rfl, rfl⟩
  | _ =>
    rw [writeRegs_others]
    rfl

end Sys2Proof

namespace Sys2Proof.Machine

/-! ## Bounds of an access -/

/-- Where the last of `n` bytes from `a` up is at most at 4095, they all lie in memory; no byte is accessed where `n` is 0. -/
theorem fits_of_last_le {a n : Nat} (h : n = 0 ∨ a + n - 1 ≤ 4095) : n = 0 ∨ a + n ≤ Config.memBytes :=
  h.imp_right fun h => by
    show a + n ≤ 4096
    omega

/-! ## Storing and loading -/

/-- What a list of bytes stored reads back as; no bound is asked of the address where the list is empty. -/
theorem Memory.readByte_writeBytes_of_fits (bs : List Byte) (a : Nat) (m : Memory) (c : Nat) (hm : m.wf)
    (hfit : bs.length = 0 ∨ a + bs.length ≤ Config.memBytes) :
    (Memory.writeBytes bs a m).readByte c =
      if h : a ≤ c ∧ c < a + bs.length then bs[c - a]'(by omega) else m.readByte c := by
  rcases hfit with hnil | hfit
  · cases List.eq_nil_of_length_eq_zero hnil
    simp [Memory.writeBytes]
  · exact Memory.readByte_writeBytes bs a m c hm hfit

/-- A store from I up that stays in memory leaves its bytes there in order, and changes no other part. -/
theorem storeBytes_indexed_completes (bs : List Byte) (s : State) (hm : s.mem.wf)
    (hfit : bs.length = 0 ∨ s.i.toNat + bs.length ≤ Config.memBytes) :
    Completes (storeBytes bs (indexed s 0) s) fun t =>
      (∀ k (hk : k < bs.length), t.mem.readByte (indexed s k) = bs[k]) ∧
      KeepsAllBut (fun p => ∃ k < bs.length, p = .byte (indexed s k)) s t := by
  have hread := fun c => Memory.readByte_writeBytes_of_fits bs s.i.toNat s.mem c hm hfit
  refine ⟨_, storeBytes_inside bs _ s (hfit.imp_left List.eq_nil_of_length_eq_zero), fun k hk => ?_, fun p hp => ?_⟩
  · refine (hread (indexed s k)).trans ?_
    simp [hk]
  · cases p with
    | byte c =>
      refine (hread c).trans (dif_neg ?_)
      rintro ⟨hle, hlt⟩
      exact hp ⟨c - s.i.toNat, by omega, congrArg Part.byte (Nat.add_sub_of_le hle).symm⟩
    | halt => exact ⟨rfl, rfl⟩
    | _ => rfl

/-- The registers below Vx after Fx65 hold the bytes loaded (R115), and no other part is changed. -/
theorem execLoadRegs_completes (x : Nibble) (s : State) (hfit : x.toNat = 0 ∨ s.i.toNat + x.toNat ≤ Config.memBytes) :
    Completes (execLoadRegs x s) fun t =>
      (∀ k : Nibble, k.toNat < x.toNat → t.reg k = s.mem.readByte (indexed s k.toNat)) ∧
      KeepsAllBut (fun p => ∃ k : Nibble, k.toNat < x.toNat ∧ p = .reg k) s t := by
  have hload := loadBytes_inside s x.toNat (indexed s 0) hfit
  generalize hbs : (List.range x.toNat).map (fun k => s.mem.readByte (indexed s 0 + k)) = bs at hload
  have hlen : bs.length = x.toNat := by simp [← hbs]
  have hx := x.isLt
  refine ⟨writeRegs bs 0 s, andThen_eq_next.mpr ⟨bs, hload, rfl⟩, fun k hk => ?_, ?_⟩
  · rw [writeRegs_reg bs 0 s (by omega), dif_pos (by omega)]
    simp [← hbs]
  · simpa only [hlen] using keepsAllBut_writeRegs bs s (by omega)

/-! ## Operands -/

@[simp] theorem toNat_byte16 (b : Byte) : (byte16 b).toNat = b.toNat := BitVec.toNat_setWidth_of_le (by decide)

/-- The sum of I and a register is taken modulo 65536 (R111). -/
theorem toNat_add_byte16 (w : Word) (b : Byte) : (w + byte16 b).toNat = (w.toNat + b.toNat) % 65536 := by
  rw [BitVec.toNat_add, toNat_byte16]

/-- Five times a byte needs no reduction (R112). -/
theorem toNat_byte16_mul_five (b : Byte) : (byte16 b * 5).toNat = b.toNat * 5 := by
  have hb := b.isLt
  rw [BitVec.toNat_mul, toNat_byte16]
  exact Nat.mod_eq_of_lt (by show b.toNat * 5 < 65536; omega)

@[simp] theorem decimalDigits_length (b : Byte) : (decimalDigits b).length = 3 := rfl

/-- Each decimal digit of a byte fits a byte (R113). -/
theorem toNat_decimalDigits (b : Byte) : (decimalDigits b)[0].toNat = b.toNat / 100 ∧
    (decimalDigits b)[1].toNat = b.toNat / 10 % 10 ∧ (decimalDigits b)[2].toNat = b.toNat % 10 := by
  have hb := b.isLt
  refine ⟨Nat.mod_eq_of_lt ?_, Nat.mod_eq_of_lt ?_, Nat.mod_eq_of_lt ?_⟩ <;> omega

end Sys2Proof.Machine

namespace Sys2Proof

open Machine

/-- Settles O35: I alone is written, with nnn, the sum of words, or the product that fits a word. -/
theorem indexWrites : Obligations.IndexWrites := fun nnn _ s =>
  ⟨hasWord_of_toNat_encode (toNat_formA 0xA nnn), hasWord_of_encode_formX (a := 0xF) (nn := 0x1E) rfl,
    hasWord_of_encode_formX (a := 0xF) (nn := 0x29) rfl,
    ⟨_, rfl, toNat_addr16 nnn, keepsAllBut_with_i s _⟩,
    ⟨_, rfl, toNat_add_byte16 s.i _, keepsAllBut_with_i s _⟩,
    ⟨_, rfl, toNat_byte16_mul_five _, keepsAllBut_with_i s _⟩⟩

/-- Settles O37: the three digits are a list of bytes stored from I up. -/
theorem bcdStoresDigits : Obligations.BcdStoresDigits := by
  intro x s
  refine ⟨hasWord_of_encode_formX (a := 0xF) (nn := 0x33) rfl, fun hm hi => ?_, fun hi => ?_⟩
  · obtain ⟨t, ht, hread, hkeep⟩ :=
      storeBytes_indexed_completes (decimalDigits (s.reg x)) s hm (fits_of_last_le (.inr hi))
    obtain ⟨h100, h10, h1⟩ := toNat_decimalDigits (s.reg x)
    refine ⟨t, ht, ?_, ?_, ?_, keepsAllBut_mono ?_ hkeep⟩
    · exact (congrArg BitVec.toNat (hread 0 (by simp))).trans h100
    · exact (congrArg BitVec.toNat (hread 1 (by simp))).trans h10
    · exact (congrArg BitVec.toNat (hread 2 (by simp))).trans h1
    · rintro _ ⟨k, hk, rfl⟩
      rw [decimalDigits_length] at hk
      interval_cases k
      · exact .inl rfl
      · exact .inr (.inl rfl)
      · exact .inr (.inr rfl)
  · exact storeBytes_outside _ _ s (by simp [decimalDigits]) (show s.i.toNat + 3 > 4096 by omega)

/-- Settles O38: the registers below Vx are a list of bytes stored from I up. -/
theorem storeRegsExclusive : Obligations.StoreRegsExclusive := by
  intro x s
  have hlen := firstRegs_length s x
  refine ⟨hasWord_of_encode_formX (a := 0xF) (nn := 0x55) rfl, fun hm hi => ?_, fun hx hi => ?_⟩
  · obtain ⟨t, ht, hread, hkeep⟩ :=
      storeBytes_indexed_completes (firstRegs s x) s hm (by rw [hlen]; exact fits_of_last_le hi)
    refine ⟨t, ht, fun k hk => ?_, by simpa only [hlen] using hkeep⟩
    have hk : k.toNat < (firstRegs s x).length := hlen.symm ▸ hk
    calc t.mem.readByte (indexed s k.toNat) = (firstRegs s x)[k.toNat] := hread k.toNat hk
      _ = s.reg (BitVec.ofNat 4 k.toNat) := firstRegs_getElem s x k.toNat hk
      _ = s.reg k := by rw [BitVec.ofNat_toNat, BitVec.setWidth_eq]
  · refine storeBytes_outside _ _ s ?_ ?_
    · exact List.ne_nil_of_length_pos (by omega)
    · show s.i.toNat + (firstRegs s x).length > 4096
      omega

/-- Settles O39: the bytes from I up are loaded before the registers below Vx are written. -/
theorem loadRegsExclusive : Obligations.LoadRegsExclusive := by
  intro x s
  refine ⟨hasWord_of_encode_formX (a := 0xF) (nn := 0x65) rfl, fun hi => ?_, fun hx hi => ?_⟩
  · exact execLoadRegs_completes x s (fits_of_last_le hi)
  · have hload := loadBytes_outside s x.toNat (indexed s 0) hx (show s.i.toNat + x.toNat > 4096 by omega)
    exact andThen_eq_fault.mpr (.inl hload)

end Sys2Proof

end

/-! PROOFS. The family of spec/44_display.md: CLS (R121), the pixels and the flag of DRW (R122, R124, R125), and a sprite drawn
twice (R123). -/

section

namespace Sys2Proof.Machine

/-! ## The pixels of a sprite

DRW toggles the pixels under the sprite's set bits one after the other. The lists below name them; none is named twice, so
toggling them in sequence is toggling each of them once (R122). -/

/-- A pixel by its row and column. -/
abbrev Pixel := Fin 32 × Fin 64

/-- The pixels under the set bits of one row byte, columns 0 to 7 (R124). -/
def bytePixels (x0 : Byte) (row : Fin 32) (b : Byte) : List Pixel :=
  ((List.range 8).filter (spriteBit b)).map fun j => (row, spriteCol x0 j)

/-- The pixels under the set bits of the sprite rows from row `r` on. -/
def spritePixels (x0 y0 : Byte) : List Byte → Nat → List Pixel
  | [], _ => []
  | b :: bs, r => bytePixels x0 (spriteRow y0 r) b ++ spritePixels x0 y0 bs (r + 1)

/-- `drawPixel` on each pixel of a list. -/
def drawPixels (l : List Pixel) (acc : Framebuffer × Bool) : Framebuffer × Bool :=
  l.foldl (fun a p => drawPixel p.1 p.2 a) acc

theorem drawByte_eq_drawPixels (x0 : Byte) (row : Fin 32) (b : Byte) (acc : Framebuffer × Bool) :
    drawByte x0 row b acc = drawPixels (bytePixels x0 row b) acc := by
  rw [drawByte, drawPixels, bytePixels, List.foldl_map, List.foldl_filter]

theorem drawRows_eq_drawPixels (x0 y0 : Byte) (bs : List Byte) (r : Nat) (acc : Framebuffer × Bool) :
    drawRows x0 y0 bs r acc = drawPixels (spritePixels x0 y0 bs r) acc := by
  induction bs generalizing r acc with
  | nil => rfl
  | cons b bs ih =>
    rw [drawRows, ih, drawByte_eq_drawPixels, spritePixels]
    exact List.foldl_append.symm

theorem mem_bytePixels {x0 : Byte} {row : Fin 32} {b : Byte} {p : Pixel} : p ∈ bytePixels x0 row b ↔
    ∃ j < 8, p = (row, spriteCol x0 j) ∧ spriteBit b j = true := by
  simp only [bytePixels, List.mem_map, List.mem_filter, List.mem_range, and_assoc]
  exact exists_congr fun j => and_congr_right fun _ => and_comm.trans (and_congr_left' eq_comm)

/-- A pixel is under a set bit of the sprite: row offset k, column offset j. -/
theorem mem_spritePixels {x0 y0 : Byte} {bs : List Byte} {r : Nat} {p : Pixel} : p ∈ spritePixels x0 y0 bs r ↔
    ∃ k, ∃ h : k < bs.length, ∃ j < 8, p = (spriteRow y0 (r + k), spriteCol x0 j) ∧ spriteBit bs[k] j = true := by
  induction bs generalizing r with
  | nil => simp [spritePixels]
  | cons b bs ih =>
    rw [spritePixels, List.mem_append, mem_bytePixels, ih]
    constructor
    · rintro (hp | ⟨k, hk, hp⟩)
      · exact ⟨0, by simp, hp⟩
      · rw [Nat.add_right_comm] at hp
        exact ⟨k + 1, by simpa using hk, hp⟩
    · rintro ⟨_ | k, hk, hp⟩
      · exact .inl hp
      · refine .inr ⟨k, by simpa using hk, ?_⟩
        rw [Nat.add_right_comm]
        exact hp

/-- The 8 columns of a row byte are distinct modulo 64. -/
theorem spriteCol_inj {x0 : Byte} {j j' : Nat} (hj : j < 8) (hj' : j' < 8) (h : spriteCol x0 j = spriteCol x0 j') :
    j = j' := by
  have h : (x0.toNat + j) % 64 = (x0.toNat + j') % 64 := congrArg Fin.val h
  omega

/-- At most 16 rows of a sprite are distinct modulo 32. -/
theorem spriteRow_inj {y0 : Byte} {k k' r : Nat} (hk : k < r + 16) (hk' : k' < r + 16) (hr : r ≤ k) (hr' : r ≤ k')
    (h : spriteRow y0 k = spriteRow y0 k') : k = k' := by
  have h : (y0.toNat + k) % 32 = (y0.toNat + k') % 32 := congrArg Fin.val h
  omega

theorem nodup_bytePixels (x0 : Byte) (row : Fin 32) (b : Byte) : (bytePixels x0 row b).Nodup := by
  refine List.Nodup.map_on (fun j hj j' hj' h => ?_) (List.nodup_range.filter _)
  have hlt : ∀ i ∈ (List.range 8).filter (spriteBit b), i < 8 := fun i hi => by
    simpa using List.mem_of_mem_filter hi
  exact spriteCol_inj (hlt j hj) (hlt j' hj') (congrArg Prod.snd h)

/-- No pixel lies under two set bits of one sprite (R122). -/
theorem nodup_spritePixels (x0 y0 : Byte) (bs : List Byte) (r : Nat) (hbs : bs.length ≤ 16) :
    (spritePixels x0 y0 bs r).Nodup := by
  induction bs generalizing r with
  | nil => exact List.nodup_nil
  | cons b bs ih =>
    rw [List.length_cons] at hbs
    refine (nodup_bytePixels x0 _ b).append (ih (r + 1) (by omega)) fun p hp hp' => ?_
    obtain ⟨j, _, rfl, _⟩ := mem_bytePixels.mp hp
    obtain ⟨k, hk, _, _, h, _⟩ := mem_spritePixels.mp hp'
    have hrow := spriteRow_inj (r := r) (by omega) (by omega) le_rfl (by omega) (congrArg Prod.fst h)
    omega

/-! ## Toggling distinct pixels -/

theorem pixelAt_drawPixels {l : List Pixel} (hl : l.Nodup) (acc : Framebuffer × Bool) (r : Fin 32) (c : Fin 64) :
    pixelAt (drawPixels l acc).1 r c = (pixelAt acc.1 r c != decide ((r, c) ∈ l)) := by
  induction l generalizing acc with
  | nil => simp [drawPixels]
  | cons p l ih =>
    obtain ⟨hp, hl⟩ := List.nodup_cons.mp hl
    refine (ih hl (drawPixel p.1 p.2 acc)).trans ?_
    by_cases h : (r, c) = p
    · subst h
      simp [drawPixel, pixelAt_togglePixel, hp]
    · have h' : ¬ (r = p.1 ∧ c = p.2) := fun h' => h (Prod.ext h'.1 h'.2)
      simp [drawPixel, pixelAt_togglePixel, h, h']

/-- A hit is a pixel of the list that was lit before any of them was toggled. -/
theorem drawPixels_hit {l : List Pixel} (hl : l.Nodup) (acc : Framebuffer × Bool) :
    (drawPixels l acc).2 = true ↔ acc.2 = true ∨ ∃ p ∈ l, pixelAt acc.1 p.1 p.2 = true := by
  induction l generalizing acc with
  | nil => simp [drawPixels]
  | cons p l ih =>
    obtain ⟨hp, hl⟩ := List.nodup_cons.mp hl
    have hkeep : ∀ q ∈ l, pixelAt (drawPixel p.1 p.2 acc).1 q.1 q.2 = pixelAt acc.1 q.1 q.2 := fun q hq => by
      have hne : ¬ (q.1 = p.1 ∧ q.2 = p.2) := fun h => hp (Prod.ext h.1 h.2 ▸ hq)
      simp [drawPixel, pixelAt_togglePixel, hne]
    have hlit : (∃ q ∈ l, pixelAt (drawPixel p.1 p.2 acc).1 q.1 q.2 = true) ↔ ∃ q ∈ l, pixelAt acc.1 q.1 q.2 = true :=
      exists_congr fun q => and_congr_right fun hq => by rw [hkeep q hq]
    refine (ih hl (drawPixel p.1 p.2 acc)).trans ?_
    rw [hlit, List.exists_mem_cons_iff, ← or_assoc]
    simp [drawPixel]

/-! ## What DRW completes with -/

/-- The sprite's bytes, as DRW loads them. -/
def spriteBytes (s : State) (n : Nibble) : List Byte := (List.range n.toNat).map fun k => s.mem.readByte (s.i.toNat + k)

@[simp] theorem length_spriteBytes (s : State) (n : Nibble) : (spriteBytes s n).length = n.toNat := by
  simp [spriteBytes]

@[simp] theorem getElem_spriteBytes (s : State) (n : Nibble) (k : Nat) (h : k < (spriteBytes s n).length) :
    (spriteBytes s n)[k] = s.mem.readByte (s.i.toNat + k) := by
  simp [spriteBytes]

/-- The framebuffer and the hit flag that DRW computes. -/
def drawSprite (s : State) (x y n : Nibble) : Framebuffer × Bool :=
  drawPixels (spritePixels (s.reg x) (s.reg y) (spriteBytes s n) 0) (s.fb, false)

theorem nodup_pixels_of_sprite (s : State) (x y n : Nibble) :
    (spritePixels (s.reg x) (s.reg y) (spriteBytes s n) 0).Nodup :=
  nodup_spritePixels _ _ _ _ (by rw [length_spriteBytes]; exact n.isLt.le)

/-- The pixels named are the ones the model's `SpriteCovers` holds of. -/
theorem mem_pixels_iff_spriteCovers {s : State} {x y n : Nibble} {r : Fin 32} {c : Fin 64} :
    (r, c) ∈ spritePixels (s.reg x) (s.reg y) (spriteBytes s n) 0 ↔ SpriteCovers s x y n r c := by
  simp only [mem_spritePixels, SpriteCovers, getElem_spriteBytes, length_spriteBytes, exists_prop, Nat.zero_add,
    spriteBit, Prod.mk.injEq, Fin.ext_iff, spriteRow, spriteCol, Fin.val_ofNat, and_assoc]

theorem execDrw_inside {x y n : Nibble} {s : State} (h : n.toNat = 0 ∨ s.i.toNat + n.toNat ≤ Config.memBytes) :
    execDrw x y n s =
      .next ({ s with fb := (drawSprite s x y n).1 }.setReg 0xF (flagByte (drawSprite s x y n).2)) := by
  rw [execDrw, loadBytes_inside s n.toNat (indexed s 0) h, andThen_next, drawRows_eq_drawPixels]
  rfl

/-- A DRW that completes leaves the framebuffer and the flag of `drawSprite`. -/
theorem eq_drawSprite_of_execDrw {x y n : Nibble} {s t : State} (h : execDrw x y n s = .next t) :
    t = { s with fb := (drawSprite s x y n).1 }.setReg 0xF (flagByte (drawSprite s x y n).2) := by
  obtain ⟨bs, hbs, -⟩ := andThen_eq_next.mp h
  obtain ⟨hfit, -⟩ := loadBytes_eq_next.mp hbs
  rw [execDrw_inside hfit] at h
  cases h
  rfl

/-- Each pixel under a set bit of the sprite is toggled once, and no other is (R122). -/
theorem pixelAt_drawSprite_ne_iff {s : State} {x y n : Nibble} {r : Fin 32} {c : Fin 64} :
    pixelAt (drawSprite s x y n).1 r c ≠ pixelAt s.fb r c ↔ SpriteCovers s x y n r c := by
  rw [drawSprite, pixelAt_drawPixels (nodup_pixels_of_sprite s x y n), ← mem_pixels_iff_spriteCovers]
  cases pixelAt s.fb r c <;> simp

/-- The hit of R125, on the framebuffer before the draw. -/
theorem drawSprite_hit_iff {s : State} {x y n : Nibble} :
    (drawSprite s x y n).2 = true ↔ ∃ r c, SpriteCovers s x y n r c ∧ pixelAt s.fb r c = true := by
  rw [drawSprite, drawPixels_hit (nodup_pixels_of_sprite s x y n)]
  simp [mem_pixels_iff_spriteCovers]

theorem flagByte_eq_one_iff {f : Bool} : flagByte f = 1 ↔ f = true := by
  cases f <;> decide

/-- What a completed DRW leaves in the pixels and in VF. -/
theorem execDrw_toggles {x y n : Nibble} {s t : State} (h : execDrw x y n s = .next t) :
    (∀ r c, pixelAt t.fb r c ≠ pixelAt s.fb r c ↔ SpriteCovers s x y n r c) ∧
      (t.reg 0xF = 1 ↔ ∃ r c, SpriteCovers s x y n r c ∧ pixelAt s.fb r c = true) := by
  obtain rfl := eq_drawSprite_of_execDrw h
  refine ⟨fun r c => pixelAt_drawSprite_ne_iff, ?_⟩
  rw [reg_setReg_self, flagByte_eq_one_iff]
  exact drawSprite_hit_iff

end Sys2Proof.Machine

namespace Sys2Proof

open Machine

/-! ## Frames of the framebuffer -/

/-- A framebuffer put in place changes the pixels it differs on alone. -/
theorem keepsAllBut_with_fb (s : State) (fb : Framebuffer) :
    KeepsAllBut (fun p => ∃ r c, p = .pixel r c ∧ pixelAt fb r c ≠ pixelAt s.fb r c) s { s with fb := fb } := by
  intro p hp
  cases p with
  | pixel r c => exact not_not.mp fun hne => hp ⟨r, c, rfl, hne⟩
  | halt => exact ⟨rfl, rfl⟩
  | _ => rfl

/-- DRW keeps every part but VF and the pixels under the sprite's set bits. -/
theorem keepsAllBut_execDrw {x y n : Nibble} {s t : State} (h : execDrw x y n s = .next t) :
    KeepsAllBut (fun p => p = .reg 0xF ∨ ∃ r c, p = .pixel r c ∧ SpriteCovers s x y n r c) s t := by
  obtain rfl := eq_drawSprite_of_execDrw h
  refine keepsAllBut_mono ?_ (keepsAllBut_trans (keepsAllBut_with_fb s _) (keepsAllBut_setReg _ 0xF _))
  rintro p (⟨r, c, rfl, hne⟩ | rfl)
  · exact .inr ⟨r, c, rfl, pixelAt_drawSprite_ne_iff.mp hne⟩
  · exact .inl rfl

/-- `SpriteCovers` reads Vx, Vy, I and the sprite's bytes, and nothing else. -/
theorem spriteCovers_congr {s t : State} {x y n : Nibble} (hx : t.reg x = s.reg x) (hy : t.reg y = s.reg y)
    (hi : t.i = s.i) (hmem : ∀ k < n.toNat, t.mem.readByte (s.i.toNat + k) = s.mem.readByte (s.i.toNat + k))
    (r : Fin 32) (c : Fin 64) : SpriteCovers t x y n r c ↔ SpriteCovers s x y n r c := by
  rw [SpriteCovers, SpriteCovers, hx, hy, hi]
  exact exists_congr fun k => and_congr_right fun hk => by rw [hmem k hk]

/-- Settles O42: the sprite's set bits fall on distinct pixels, so the sequence of toggles toggles each of them once, and a hit
is a pixel that was lit before. -/
theorem drwTogglesSpritePixels : Obligations.DrwTogglesSpritePixels := by
  intro x y n s
  refine ⟨hasWord_of_toNat_encode ?_, fun hi => ?_, fun hn hi => ?_⟩
  · rw [encode, toNat_formXY, Nat.mul_comm 256, Nat.mul_comm 16]
    rfl
  · have hnext := execDrw_inside (x := x) (y := y) (fits_of_last_le hi)
    obtain ⟨htoggle, hhit⟩ := execDrw_toggles hnext
    refine ⟨_, hnext, htoggle, ?_, hhit.trans ?_, keepsAllBut_execDrw hnext⟩
    · rw [reg_setReg_self]
      exact flagByte_eq_zero_or_one _
    · refine exists_congr fun r => exists_congr fun c => ?_
      rw [← htoggle r c, and_comm]
      exact and_congr_right fun hlit => by rw [hlit, ne_eq, Bool.not_eq_true]
  · have hload := loadBytes_outside s n.toNat (indexed s 0) hn (show s.i.toNat + n.toNat > 4096 by omega)
    exact andThen_eq_fault.mpr (.inl hload)

/-- Settles O43: the second draw toggles the same pixels, each back to what it was. -/
theorem drawTwiceRestores : Obligations.DrawTwiceRestores := by
  intro x y n s t t' u hst hfb hx hy hi hmem htu
  obtain ⟨htoggle, -⟩ := execDrw_toggles hst
  obtain ⟨htoggle', hhit⟩ := execDrw_toggles htu
  have hsame := spriteCovers_congr hx hy hi hmem
  simp only [hfb, hsame, ← htoggle] at htoggle' hhit
  refine ⟨fun r c => ?_, hhit, hhit.trans (exists_congr fun r => exists_congr fun c => ?_)⟩
  · by_cases h : pixelAt t.fb r c = pixelAt s.fb r c
    · exact (not_not.mp fun hne => (htoggle' r c).mp hne h).trans h
    · rw [Bool.eq_not.mpr ((htoggle' r c).mpr h), Bool.eq_not.mpr h, Bool.not_not]
  · exact and_congr_right fun hne => by rw [Bool.eq_not.mpr hne, Bool.not_eq_true']

/-- Settles O41: 0x00E0 is the one word of CLS, which puts the cleared framebuffer in place. -/
theorem clsClearsEveryPixel : Obligations.ClsClearsEveryPixel := by
  refine ⟨fun _ => decodeWord_eq_ok_iff, fun s => ⟨_, rfl, pixelAt_clearedFb, keepsAllBut_mono ?_ (keepsAllBut_with_fb s _)⟩⟩
  rintro _ ⟨r, c, rfl, -⟩
  exact ⟨r, c, rfl⟩

end Sys2Proof

end

/-! PROOFS. The family of spec/45_keypad.md: the skips on a key (R130 to R132) and the wait for a key (R133). -/

section

namespace Sys2Proof.Machine

/-! ## The skips on a key -/

theorem execSkp_of_lt {x : Nibble} {s : State} (h : (s.reg x).toNat < 16) :
    execSkp x s = .next (skipIf s.key[(s.reg x).toNat] s) :=
  andThen_eq_next.mpr ⟨_, keyPressed_eq_next.mpr ⟨h, rfl⟩, rfl⟩

theorem execSknp_of_lt {x : Nibble} {s : State} (h : (s.reg x).toNat < 16) :
    execSknp x s = .next (skipIf (!s.key[(s.reg x).toNat]) s) :=
  andThen_eq_next.mpr ⟨_, keyPressed_eq_next.mpr ⟨h, rfl⟩, rfl⟩

theorem toNat_skipIf_not_pc (c : Bool) (s : State) :
    (skipIf (!c) s).pc.toNat = if c then s.pc.toNat else (s.pc.toNat + 2) % 65536 := by
  cases c with
  | false => exact toNat_skipIf_pc true s
  | true => exact toNat_skipIf_pc false s

/-! ## The wait for a key -/

theorem execLdVxK_of_some {x : Nibble} {s : State} {k : Nat} (h : firstPressed s = some k) :
    execLdVxK x s = .next (s.setReg x (BitVec.ofNat 8 k)) := by
  rw [execLdVxK, h]

theorem execLdVxK_of_none {x : Nibble} {s : State} (h : firstPressed s = none) :
    execLdVxK x s = .next { s with pc := s.pc - 2 } := by
  rw [execLdVxK, h]

/-- With no key pressed the tick takes back the 2 that fetch added to pc, whatever pc is. -/
theorem step_of_fetches_ldVxK_of_none {x : Nibble} {s : State} (hh : s.halted = false) (hf : Fetches s (.ldVxK x))
    (h : firstPressed s = none) : step s = .next s := by
  obtain ⟨hpc, hd⟩ := hf
  have hnone : firstPressed { s with pc := s.pc + 2 } = none := h
  calc step s = execLdVxK x { s with pc := s.pc + 2 } := tickBody_of_decode exec hh hpc hd
    _ = .next { s with pc := s.pc + 2 - 2 } := execLdVxK_of_none hnone
    _ = .next s := by rw [BitVec.add_sub_cancel]

end Sys2Proof.Machine

namespace Sys2Proof

open Machine

/-- Settles O45: the scan gives the lowest pressed key, and with none it gives nothing, so that pc moves back over the fetch. -/
theorem keyWaitTakesLowestOrRepeats : Obligations.KeyWaitTakesLowestOrRepeats := by
  intro x s
  refine ⟨hasWord_of_encode_formX (a := 0xF) (nn := 0x0A) rfl, fun k hk hlow => ?_, fun hnone => ?_⟩
  · have hsome : firstPressed s = some k.val :=
      firstPressed_eq_some.mpr ⟨k.isLt, hk, fun j hj => hlow ⟨j, hj.trans k.isLt⟩ hj⟩
    refine ⟨_, execLdVxK_of_some hsome, ?_, keepsAllBut_setReg s x _⟩
    rw [reg_setReg_self, BitVec.toNat_ofNat]
    exact Nat.mod_eq_of_lt (k.isLt.trans (by decide))
  · have hnone := firstPressed_eq_none.mpr hnone
    refine ⟨⟨_, execLdVxK_of_none hnone, ?_, keepsAllBut_with_pc s _⟩, fun hh hf =>
      step_of_fetches_ldVxK_of_none hh hf hnone⟩
    show (s.pc - 2).toNat = _
    bv_omega

/-- Settles O44: with Vx below 16 both are one skip, on the key and on its negation; from 16 up there is no key to read. -/
theorem keySkips : Obligations.KeySkips := by
  intro x s
  refine ⟨hasWord_of_encode_formX (a := 0xE) (nn := 0x9E) rfl, hasWord_of_encode_formX (a := 0xE) (nn := 0xA1) rfl,
    fun h => ⟨?_, ?_⟩, fun h => ?_⟩
  · exact ⟨_, execSkp_of_lt h, keepsAllBut_skipIf _ s, toNat_skipIf_pc _ s⟩
  · exact ⟨_, execSknp_of_lt h, keepsAllBut_skipIf _ s, toNat_skipIf_not_pc _ s⟩
  · have hfault : keyPressed s (s.reg x) = .fault .keyIndexOutOfRange := keyPressed_eq_fault.mpr ⟨h, rfl⟩
    exact ⟨andThen_eq_fault.mpr (.inl hfault), andThen_eq_fault.mpr (.inl hfault)⟩

end Sys2Proof

end

/-! PROOFS. The family of spec/46_timer_instructions.md: the moves between Vx and the timers (R140 to R142), none of which emits
an event. -/

section

namespace Sys2Proof

open Machine

/-! ## Frames of the timers -/

theorem keepsAllBut_with_dt (s : State) (b : Byte) : KeepsAllBut (· = .delay) s { s with dt := b } := by
  intro p hp
  cases p with
  | delay => exact absurd rfl hp
  | halt => exact ⟨rfl, rfl⟩
  | _ => rfl

theorem keepsAllBut_with_st (s : State) (b : Byte) : KeepsAllBut (· = .sound) s { s with st := b } := by
  intro p hp
  cases p with
  | sound => exact absurd rfl hp
  | halt => exact ⟨rfl, rfl⟩
  | _ => rfl

theorem keepsAllBut_with_pc_st (s : State) (w : Word) (b : Byte) :
    KeepsAllBut (fun p => p = .sound ∨ p = .pc) s { s with pc := w, st := b } :=
  keepsAllBut_mono (fun _ => Or.symm) (keepsAllBut_trans (keepsAllBut_with_pc s w) (keepsAllBut_with_st _ b))

end Sys2Proof

namespace Sys2Proof.Machine

/-! ## The host's TICK -/

/-- A TICK that completes gives the host no output but `ok` (R150). -/
theorem operate_tick_of_next {s t : State} {r : Byte} (rest : State) (h : tickWith r s = .next t) :
    operate rest (.tick r) s = .next (t, .none) := by
  rw [operate, h]

theorem tickWith_of_fetches_ldStVx {s : State} {x : Nibble} (r : Byte) (hh : s.halted = false)
    (hf : Fetches s (.ldStVx x)) : tickWith r s = .next { s with pc := s.pc + 2, st := s.reg x } := by
  obtain ⟨hpc, hd⟩ := hf
  exact tickBody_of_decode _ hh hpc hd

end Sys2Proof.Machine

namespace Sys2Proof

open Machine

/-- Settles O46: each move is one write, and the output of a completing TICK does not depend on what the tick wrote. -/
theorem timerMoves : Obligations.TimerMoves := fun x s =>
  ⟨hasWord_of_encode_formX (a := 0xF) (nn := 0x07) rfl, hasWord_of_encode_formX (a := 0xF) (nn := 0x15) rfl,
    hasWord_of_encode_formX (a := 0xF) (nn := 0x18) rfl,
    ⟨_, rfl, reg_setReg_self s x _, keepsAllBut_setReg s x _⟩,
    ⟨_, rfl, rfl, keepsAllBut_with_dt s _⟩,
    ⟨_, rfl, rfl, keepsAllBut_with_st s _⟩,
    fun rest _ _ ht => operate_tick_of_next rest ht,
    fun hh hf rest r =>
      ⟨_, operate_tick_of_next rest (tickWith_of_fetches_ldStVx r hh hf), rfl, keepsAllBut_with_pc_st s _ _⟩⟩

end Sys2Proof

end

/-! PROOFS. The family of spec/47_host_operations.md: the host's operations (R150 to R158), the ticks without a transition
(R162), and the boot sequence. -/

section

namespace Sys2Proof.Machine

/-! ## What a tick can do (R152) -/

/-- A tick is refused on a halted machine, is fatal before it runs anything, or runs the instruction it fetched. -/
theorem tickBody_cases (s : State) :
    (s.halted = true ∧ ∀ run, tickBody run s = .refused .machineHalted) ∨
    (s.halted = false ∧ ∃ f, ∀ run, tickBody run s = .fault f) ∨
    (s.halted = false ∧ ∃ i, Fetches s i ∧ ∀ run, tickBody run s = run i { s with pc := s.pc + 2 }) := by
  by_cases hh : s.halted = true
  · exact .inl ⟨hh, fun run => if_pos hh⟩
  have hrun : s.halted = false := Bool.eq_false_of_not_eq_true hh
  refine .inr ?_
  by_cases hpc : s.pc.toNat ≤ 4094
  · cases hd : decodeWord (wordAtPc s) with
    | error e => exact .inl ⟨hrun, _, fun run => tickBody_of_decode_error run hrun hpc hd⟩
    | ok i => exact .inr ⟨hrun, i, ⟨hpc, hd⟩, fun run => tickBody_of_decode run hrun hpc hd⟩
  · have hfetch : fetch s = .fault .fetchOutOfBounds := fetch_eq_fault.mpr ⟨not_le.mp hpc, rfl⟩
    exact .inl ⟨hrun, _, fun run => (if_neg hh).trans (andThen_eq_fault.mpr (.inl hfetch))⟩

theorem tickBody_of_fetches (run : Instr → State → Res State) {s : State} {i : Instr} (hh : s.halted = false)
    (hf : Fetches s i) : tickBody run s = run i { s with pc := s.pc + 2 } := by
  obtain ⟨hpc, hd⟩ := hf
  exact tickBody_of_decode run hh hpc hd

/-- Two ticks are related where their execute halves are, on the instruction fetched. -/
theorem tickBody_rel {R : Res State → Res State → Prop} {run run' : Instr → State → Res State} {s : State}
    (hrefl : ∀ o, R o o)
    (h : ∀ i, Fetches s i → R (run i { s with pc := s.pc + 2 }) (run' i { s with pc := s.pc + 2 })) :
    R (tickBody run s) (tickBody run' s) := by
  obtain ⟨-, htick⟩ | ⟨-, f, htick⟩ | ⟨-, i, hf, htick⟩ := tickBody_cases s
  · rw [htick, htick]
    exact hrefl _
  · rw [htick, htick]
    exact hrefl _
  · rw [htick, htick]
    exact h i hf

theorem tickBody_eq_refused {run : Instr → State → Res State} {s : State} {r : Refusal} :
    tickBody run s = .refused r ↔ (s.halted = true ∧ r = .machineHalted) ∨
      (s.halted = false ∧ ∃ i, Fetches s i ∧ run i { s with pc := s.pc + 2 } = .refused r) := by
  constructor
  · intro h
    obtain ⟨hh, htick⟩ | ⟨-, f, htick⟩ | ⟨hh, i, hf, htick⟩ := tickBody_cases s
    · cases (htick run).symm.trans h
      exact .inl ⟨hh, rfl⟩
    · cases (htick run).symm.trans h
    · exact .inr ⟨hh, i, hf, (htick run).symm.trans h⟩
  · rintro (⟨hh, rfl⟩ | ⟨hh, i, hf, h⟩)
    · exact if_pos hh
    · exact (tickBody_of_fetches run hh hf).trans h

/-! ## What is never refused, and the one thing that is -/

theorem andThen_eq_refused {α β : Type} {o : Res α} {k : α → Res β} {r : Refusal} :
    andThen o k = .refused r ↔ o = .refused r ∨ ∃ a, o = .next a ∧ k a = .refused r := by
  cases o <;> simp [andThen]

theorem push_ne_refused (w : Word) (s : State) (r : Refusal) : push w s ≠ .refused r := by
  unfold push
  split <;> exact nofun

theorem keyPressed_ne_refused (s : State) (k : Byte) (r : Refusal) : keyPressed s k ≠ .refused r := by
  unfold keyPressed
  split <;> exact nofun

theorem loadBytes_ne_refused (s : State) (n a : Nat) (r : Refusal) : loadBytes s n a ≠ .refused r := by
  by_cases h : n = 0 ∨ a + n ≤ Config.memBytes
  · rw [loadBytes_inside s n a h]
    exact nofun
  · obtain ⟨hn, ha⟩ := not_or.mp h
    rw [loadBytes_outside s n a hn (not_le.mp ha)]
    exact nofun

theorem storeBytes_ne_refused (bs : List Byte) (a : Nat) (s : State) (r : Refusal) :
    storeBytes bs a s ≠ .refused r := by
  by_cases h : bs = [] ∨ a + bs.length ≤ Config.memBytes
  · rw [storeBytes_inside bs a s h]
    exact nofun
  · obtain ⟨hb, ha⟩ := not_or.mp h
    rw [storeBytes_outside bs a s hb (not_le.mp ha)]
    exact nofun

/-- A pop of an entry that the stack does not have (R16). -/
theorem pop_eq_refused {s : State} {r : Refusal} :
    pop s = .refused r ↔ s.sp.toNat > 16 ∧ r = .stackPointerOutOfRange := by
  by_cases h0 : s.sp = 0
  · rw [pop, if_pos h0]
    exact ⟨nofun, fun ⟨hsp, _⟩ => absurd hsp (by simp [h0])⟩
  · have hlt : (s.sp - 1).toNat < 16 ↔ ¬ s.sp.toNat > 16 := by bv_omega
    rw [pop, if_neg h0]
    by_cases hsp : s.sp.toNat > 16
    · rw [dif_neg (by rwa [hlt, not_not]), and_iff_right hsp, Host.Outcome.refused.injEq, eq_comm]
    · rw [dif_pos (hlt.mpr hsp)]
      exact ⟨nofun, fun ⟨h, _⟩ => absurd h hsp⟩

/-- RET alone is refused, in a state that no run reaches. -/
theorem exec_eq_refused {i : Instr} {s : State} {r : Refusal} : exec i s = .refused r ↔
    i = .ret ∧ s.sp.toNat > 16 ∧ r = .stackPointerOutOfRange := by
  constructor
  · intro h
    cases i with
    | ret =>
      obtain h | ⟨_, _, ⟨⟩⟩ := andThen_eq_refused.mp h
      exact ⟨rfl, pop_eq_refused.mp h⟩
    | call =>
      obtain h | ⟨_, _, ⟨⟩⟩ := andThen_eq_refused.mp h
      exact absurd h (push_ne_refused _ _ _)
    | skp | sknp =>
      obtain h | ⟨_, _, ⟨⟩⟩ := andThen_eq_refused.mp h
      exact absurd h (keyPressed_ne_refused _ _ _)
    | drw | loadRegs =>
      obtain h | ⟨_, _, ⟨⟩⟩ := andThen_eq_refused.mp h
      exact absurd h (loadBytes_ne_refused _ _ _ _)
    | ldB | storeRegs => exact absurd h (storeBytes_ne_refused _ _ _ _)
    | ldVxK x =>
      cases hk : firstPressed s with
      | some k => cases (execLdVxK_of_some hk).symm.trans h
      | none => cases (execLdVxK_of_none hk).symm.trans h
    | _ => cases h
  · rintro ⟨rfl, hr⟩
    exact andThen_eq_refused.mpr (.inl (pop_eq_refused.mpr hr))

/-! ## The random byte of the host's TICK (R158) -/

/-- The execute half of the host's TICK with the random byte `r`. -/
def execWith (r : Byte) (i : Instr) (s : State) : Res State :=
  match i with
  | .rnd x nn => .next (drawInto r x nn s)
  | j => exec j s

theorem tickWith_eq_tickBody (r : Byte) (s : State) : tickWith r s = tickBody (execWith r) s := rfl

theorem execWith_of_ne_rnd (r : Byte) {i : Instr} (h : ∀ x nn, i ≠ .rnd x nn) (s : State) :
    execWith r i s = exec i s := by
  cases i with
  | rnd x nn => exact absurd rfl (h x nn)
  | _ => rfl

/-- `exec` draws the free value (assumption log 3). -/
theorem exec_eq_execWith (i : Instr) (s : State) : exec i s = execWith (Config.rnd s.draws) i s := by
  cases i <;> rfl

/-- A draw completes, whatever the byte is. -/
theorem execWith_eq_fault_congr (r r' : Byte) (i : Instr) (s : State) (f : Fault) :
    execWith r i s = .fault f ↔ execWith r' i s = .fault f := by
  cases i with
  | rnd => exact ⟨nofun, nofun⟩
  | _ => exact Iff.rfl

/-! ## The host's operations, one equation for each outcome (R150) -/

theorem operate_create (rest s : State) (font : Vector Byte 80) :
    operate rest (.create font) s = .next (startOver font s, .none) := rfl

theorem operate_readFramebuffer (rest s : State) :
    operate rest .readFramebuffer s = .next (s, .framebuffer s.fb) := rfl

theorem operate_readState (rest s : State) : operate rest .readState s = .next (s, .view (viewOf s)) := rfl

theorem unlessHalted_of_running {α : Type} {s : State} (hh : s.halted = false) (o : Res α) : unlessHalted s o = o :=
  if_neg (Bool.eq_false_iff.mp hh)

theorem operate_loadProgram_of_le (rest : State) {s : State} {image : List Byte} (hh : s.halted = false)
    (h : image.length ≤ 3584) : operate rest (.loadProgram image) s =
      .next ({ s with mem := Memory.writeBytes image 0x200 s.mem }, .none) := by
  have hfits : imageFits image.length = true := decide_eq_true (show 0x200 + image.length ≤ 4096 by omega)
  simp only [operate, unlessHalted_of_running hh, loadProgram, hfits, if_true, andThen_next, Config.loadAddress]

theorem operate_loadProgram_of_gt (rest : State) {s : State} {image : List Byte} (hh : s.halted = false)
    (h : image.length > 3584) : operate rest (.loadProgram image) s = .refused .imageTooLarge := by
  have hfits : imageFits image.length = false := decide_eq_false (show ¬ 0x200 + image.length ≤ 4096 by omega)
  simp only [operate, unlessHalted_of_running hh, loadProgram, hfits, Bool.false_eq_true, if_false, andThen_refused]

theorem operate_setKey_of_lt (rest : State) {s : State} {k : Nat} (pressed : Bool) (hh : s.halted = false)
    (hk : k < 16) : operate rest (.setKey k pressed) s = .next ({ s with key := s.key.set k pressed }, .none) := by
  simp only [operate, unlessHalted_of_running hh, setKey, hk, dite_true, andThen_next]

theorem operate_setKey_of_ge (rest : State) {s : State} {k : Nat} (pressed : Bool) (hh : s.halted = false)
    (hk : ¬ k < 16) : operate rest (.setKey k pressed) s = .refused .keyIndexNotAKey := by
  simp only [operate, unlessHalted_of_running hh, setKey, hk, dite_false, andThen_refused]

end Sys2Proof.Machine

namespace Sys2Proof

open Machine

/-! ## Frames of memory and of the keys -/

/-- Bytes written from an address up change those bytes alone. -/
theorem keepsAllBut_with_writeBytes (s : State) (bs : List Byte) (a : Nat) (hm : s.mem.wf)
    (hfit : a + bs.length ≤ Config.memBytes) :
    KeepsAllBut (fun p => ∃ k < bs.length, p = .byte (a + k)) s { s with mem := Memory.writeBytes bs a s.mem } := by
  intro p hp
  cases p with
  | byte c =>
    refine (Memory.readByte_writeBytes bs a s.mem c hm hfit).trans (dif_neg ?_)
    rintro ⟨hle, hlt⟩
    exact hp ⟨c - a, by omega, congrArg Part.byte (Nat.add_sub_of_le hle).symm⟩
  | halt => exact ⟨rfl, rfl⟩
  | _ => rfl

theorem keepsAllBut_with_key (s : State) (k : Fin 16) (pressed : Bool) :
    KeepsAllBut (· = .key k) s { s with key := s.key.set k pressed } := by
  intro p hp
  cases p with
  | key j =>
    have hne : k.val ≠ j.val := fun h => hp (congrArg Part.key (Fin.ext h.symm))
    exact Vector.getElem_set_ne k.isLt j.isLt hne
  | halt => exact ⟨rfl, rfl⟩
  | _ => rfl

/-! ## What READ_STATE shows -/

theorem v_eq_of_reg {s t : State} (h : ∀ x, t.reg x = s.reg x) : t.v = s.v :=
  Vector.ext fun k hk => h (BitVec.ofFin ⟨k, hk⟩)

/-- READ_STATE shows nothing but the parts that R150 lists. -/
theorem viewOf_congr {s t : State}
    (h : KeepsAllBut (fun p => p = .draws ∨ (∃ a, p = .byte a) ∨ (∃ k, p = .key k) ∨ ∃ r c, p = .pixel r c) s t) :
    viewOf t = viewOf s := by
  have hpc : t.pc = s.pc := h .pc (by simp)
  have hi : t.i = s.i := h .index (by simp)
  have hsp : t.sp = s.sp := h .sp (by simp)
  have hdt : t.dt = s.dt := h .delay (by simp)
  have hst : t.st = s.st := h .sound (by simp)
  have hv : t.v = s.v := v_eq_of_reg fun x => h (.reg x) (by simp)
  have hstack : t.stack = s.stack := Vector.ext fun k hk => h (.entry ⟨k, hk⟩) (by simp)
  obtain ⟨hhalted, hcause⟩ := h .halt (by simp)
  simp only [viewOf, hpc, hi, hsp, hdt, hst, hv, hstack, hhalted, hcause]

/-- Settles O15: of all that a tick can do, the halted machine and RET without an entry to pop are the refusals. -/
theorem refusalsOfStep : Obligations.RefusalsOfStep := by
  intro s r
  rw [step, tickBody_eq_refused]
  refine or_congr_right (and_congr_right fun _ => ⟨?_, ?_⟩)
  · rintro ⟨i, hf, hi⟩
    obtain ⟨rfl, hr⟩ := exec_eq_refused.mp hi
    exact ⟨hf, hr⟩
  · rintro ⟨hf, hr⟩
    exact ⟨.ret, hf, exec_eq_refused.mpr ⟨rfl, hr⟩⟩

/-- Settles O34: the execute halves of two TICKs differ on Cxnn alone, which is never fatal. -/
theorem randomByteReachesOnlyRnd : Obligations.RandomByteReachesOnlyRnd := by
  refine ⟨fun r r' s hno => ?_, fun r r' s f => ?_, fun s => ?_⟩
  · refine tickBody_rel (R := Eq) (fun _ => rfl) fun i hf => ?_
    have hne : ∀ x nn, i ≠ .rnd x nn := fun x nn h => hno x nn (h ▸ hf)
    exact (execWith_of_ne_rnd r hne _).trans (execWith_of_ne_rnd r' hne _).symm
  · exact tickBody_rel (R := fun o o' => o = .fault f ↔ o' = .fault f) (fun _ => Iff.rfl) fun i _ =>
      execWith_eq_fault_congr r r' i _ f
  · exact tickBody_rel (R := Eq) (fun _ => rfl) fun i _ => exec_eq_execWith i _

/-- Settles O49: an image of at most 3584 bytes fits memory from 0x200 up. -/
theorem loadProgramCopiesImage : Obligations.LoadProgramCopiesImage := by
  intro rest s image hh hm hlen
  have hfit : 0x200 + image.length ≤ Config.memBytes := show 0x200 + image.length ≤ 4096 by omega
  refine ⟨_, operate_loadProgram_of_le rest hh hlen, fun k hk => ?_, keepsAllBut_with_writeBytes s image _ hm hfit⟩
  refine (Memory.readByte_writeBytes image 0x200 s.mem (0x200 + k) hm hfit).trans ?_
  simp [hk]

/-- Settles O51: the load keeps the pc and the halt that INITIALIZE leaves, and its first two bytes are the word at pc. -/
theorem bootFetchesFirstWord : Obligations.BootFetchesFirstWord := by
  intro rest s font b0 b1 image hlen
  obtain ⟨t, hload, hbytes, hkeep⟩ := loadProgramCopiesImage rest (startOver font s) (b0 :: b1 :: image) rfl
    (initialState_mem_wf font) (show image.length + 2 ≤ 3584 by omega)
  have hpc : t.pc = 0x200 := hkeep .pc (by simp)
  obtain ⟨hhalted, -⟩ := hkeep .halt (by simp)
  have hb0 : t.mem.readByte 0x200 = b0 := hbytes 0 (by simp)
  have hb1 : t.mem.readByte 0x201 = b1 := hbytes 1 (by simp)
  have hword : wordAtPc t = joinBytes b0 b1 := by
    rw [wordAtPc, hpc]
    exact congrArg₂ joinBytes hb0 hb1
  have hvalue : (wordAtPc t).toNat = b0.toNat * 256 + b1.toNat := by rw [hword, toNat_joinBytes]
  refine ⟨t, ?_, hhalted, hpc, hvalue, fun i hi => ?_⟩
  · simp only [operateAll, operate_create, hload, andThen_next]
  · have hfetch : Fetches t i := ⟨by rw [hpc]; decide, hi _ hvalue⟩
    have hstep := tickBody_of_fetches exec hhalted hfetch
    rwa [hpc] at hstep

/-- Settles O57: READ_STATE's output is the view, which none of MEM, KEY, FB and the count of draws enters. -/
theorem readStateHidesMemoryAndKeys : Obligations.ReadStateHidesMemoryAndKeys := by
  intro rest rest' s s' h
  exact ⟨viewOf s, operate_readState rest s, by rw [operate_readState, viewOf_congr h]⟩

/-- Settles O11: fetch reads the word at pc and moves pc past it. -/
theorem stepRunsDecodedInstruction : Obligations.StepRunsDecodedInstruction :=
  fun _ _ hh hpc _ hd => tickBody_of_decode exec hh hpc hd

/-- Settles O22: the jump loads pc with the value it had before the fetch. -/
theorem selfJumpIsFixedPoint : Obligations.SelfJumpIsFixedPoint := by
  rintro s ⟨hh, nnn, hf, hpc⟩
  calc step s = .next { s with pc := addr16 nnn } := tickBody_of_fetches exec hh hf
    _ = .next s := by rw [← hpc]

/-- Settles O48: an index below 16 is a key, and the write of one key keeps the others. -/
theorem setKeyWritesOneKey : Obligations.SetKeyWritesOneKey := fun rest s k pressed hh =>
  ⟨_, operate_setKey_of_lt rest pressed hh k.isLt, Vector.getElem_set_self k.isLt, keepsAllBut_with_key s k pressed⟩

/-- Settles O50: the image does not fit from 0x200 up, and the index is no key. -/
theorem contractViolationsRefused : Obligations.ContractViolationsRefused := fun rest _ hh =>
  ⟨fun _ h => operate_loadProgram_of_gt rest hh h, fun _ pressed h => operate_setKey_of_ge rest pressed hh (not_lt.mpr h)⟩

/-- Settles O53: the state is the next state of both reads, and each field of the test port is the state's. -/
theorem readsChangeNothing : Obligations.ReadsChangeNothing := fun rest s =>
  ⟨⟨s.fb, operate_readFramebuffer rest s, fun _ _ => rfl⟩, ⟨viewOf s, operate_readState rest s, rfl⟩,
    rfl, rfl, rfl, rfl, rfl, rfl, rfl, fun _ => rfl, rfl, fun _ _ => rfl, rfl, rfl⟩

end Sys2Proof

end

/-! PROOFS. The families of spec/60_exceptions.md (R172 to R184), of spec/70_reset_and_hazards.md (R200 to R202), and the rest:
the decoder and the encoder (R50 to R57), the condition of each fatal (R173), the invariant under the host's operations, and
which instruction changes which state (R26). -/

section

namespace Sys2Proof

/-! ## Bytes in memory order -/

/-- The two bytes of a word that decodes are the ones consumed. -/
theorem decode_wordBytes_append {w : Word} {i : Instr} (h : decodeWord w = .ok i) (rest : List Byte) :
    decode (wordBytes w ++ rest) = .ok (i, rest) := by
  have hj := joinBytes_wordBytes w _ _ rfl
  simp only [wordBytes, List.cons_append, List.nil_append, decode, hj, h]

/-- Settles O6: the fields of an encoded word are the operands, and its two bytes join to it again. -/
theorem decodeOfEncode : Obligations.DecodeOfEncode := fun i _ =>
  ⟨decodeWord_encode i, decode_wordBytes_append (decodeWord_encode i)⟩

/-- Settles O7: each arm of the decoder looks at every bit of the word, as a field or as part of a sub-opcode. -/
theorem encodeOfDecode : Obligations.EncodeOfDecode := fun _ _ => encode_of_decodeWord

/-- Settles O5, by running the decoder on each word. -/
theorem writtenOutWordsDecode : Obligations.WrittenOutWordsDecode := by
  unfold Obligations.WrittenOutWordsDecode
  decide

/-! ## The illegal words (R57) -/

theorem forall_ne_ok_iff {ε α : Type} {r : Except ε α} : (∀ a, r ≠ .ok a) ↔ r.isOk = false := by
  cases r with
  | ok a => exact ⟨fun h => absurd rfl (h a), nofun⟩
  | error e => exact ⟨fun _ => rfl, fun _ _ => nofun⟩

theorem toNat_fieldNN (w : Word) : (fieldNN w).toNat = w.toNat % 256 := BitVec.extractLsb'_toNat 0 8 w

theorem decodeFamily0_isOk_eq_false (w : Word) : (decodeFamily0 w).isOk = false ↔
    w.toNat ≠ 0x0000 ∧ w.toNat ≠ 0x00E0 ∧ w.toNat ≠ 0x00EE := by
  simp only [decodeFamily0, ← BitVec.toNat_inj]
  split_ifs <;> simp_all [Except.isOk, Except.toBool]

theorem decodeFamily8_isOk_eq_false (x y n : Nibble) : (decodeFamily8 x y n).isOk = false ↔
    n.toNat ∈ [8, 9, 0xA, 0xB, 0xC, 0xD, 0xF] := by
  rw [decodeFamily8_isOk_congr x 0 y 0]
  revert n
  decide

theorem decodeFamilyE_isOk_eq_false (x : Nibble) (nn : Byte) : (decodeFamilyE x nn).isOk = false ↔
    nn.toNat ∉ [0x9E, 0xA1] := by
  rw [decodeFamilyE_isOk_congr x 0]
  revert nn
  decide

theorem decodeFamilyF_isOk_eq_false (x : Nibble) (nn : Byte) : (decodeFamilyF x nn).isOk = false ↔
    nn.toNat ∉ [0x07, 0x0A, 0x15, 0x18, 0x1E, 0x29, 0x33, 0x55, 0x65] := by
  rw [decodeFamilyF_isOk_congr x 0]
  revert nn
  decide

/-- Families 0x5 and 0x9: the sub-opcode n is 0. -/
theorem ite_fieldN_isOk_eq_false (w : Word) (i : Instr) (e : DecodeError) :
    (if fieldN w = 0#4 then (.ok i : Except DecodeError Instr) else .error e).isOk = false ↔ w.toNat % 16 ≠ 0 := by
  rw [ne_eq, ← show fieldN w = 0#4 ↔ w.toNat % 16 = 0 from fieldN_eq_iff]
  split_ifs with h
  · exact ⟨nofun, fun hn => absurd h hn⟩
  · exact ⟨fun _ => h, fun _ => rfl⟩

/-- Settles O9, by the arms of the decoder: the family of the word picks the one disjunct that can hold. -/
theorem illegalWordsByFamily : Obligations.IllegalWordsByFamily := by
  intro w
  rw [forall_ne_ok_iff, ← toNat_fieldF1, ← toNat_fieldNN, decodeWord]
  split
  case h_1 hf => simp [hf, decodeFamily0_isOk_eq_false]
  case h_6 hf | h_10 hf => simp [hf, ite_fieldN_isOk_eq_false]
  case h_9 hf => simp [hf, decodeFamily8_isOk_eq_false, toNat_fieldN]
  case h_15 hf => simp [hf, decodeFamilyE_isOk_eq_false]
  case h_16 =>
    have hf : fieldF1 w = 0xF := by generalize fieldF1 w = f at *; revert f; decide
    simp [hf, decodeFamilyF_isOk_eq_false]
  -- every word of the other families decodes
  case h_2 hf | h_3 hf | h_4 hf | h_5 hf | h_7 hf | h_8 hf | h_11 hf | h_12 hf | h_13 hf | h_14 hf =>
    simp [hf, Except.isOk, Except.toBool]

end Sys2Proof

namespace Sys2Proof.Machine

/-! ## What loading and storing are fatal on -/

theorem loadBytes_eq_fault {s : State} {n a : Nat} {f : Fault} : loadBytes s n a = .fault f ↔
    n ≠ 0 ∧ a + n > Config.memBytes ∧ f = .memoryOutOfBounds := by
  by_cases h : n = 0 ∨ a + n ≤ Config.memBytes
  · rw [loadBytes_inside s n a h]
    exact ⟨nofun, fun ⟨hn, ha, _⟩ => absurd h (not_or.mpr ⟨hn, not_le.mpr ha⟩)⟩
  · obtain ⟨hn, ha⟩ := not_or.mp h
    have ha := not_le.mp ha
    rw [loadBytes_outside s n a hn ha, and_iff_right hn, and_iff_right ha, Host.Outcome.fault.injEq, eq_comm]

theorem storeBytes_eq_fault {bs : List Byte} {a : Nat} {s : State} {f : Fault} : storeBytes bs a s = .fault f ↔
    bs ≠ [] ∧ a + bs.length > Config.memBytes ∧ f = .memoryOutOfBounds := by
  by_cases h : bs = [] ∨ a + bs.length ≤ Config.memBytes
  · rw [storeBytes_inside bs a s h]
    exact ⟨nofun, fun ⟨hb, ha, _⟩ => absurd h (not_or.mpr ⟨hb, not_le.mpr ha⟩)⟩
  · obtain ⟨hb, ha⟩ := not_or.mp h
    have ha := not_le.mp ha
    rw [storeBytes_outside bs a s hb ha, and_iff_right hb, and_iff_right ha, Host.Outcome.fault.injEq, eq_comm]

/-! ## What each instruction that can be fatal is fatal on (R173) -/

theorem execCall_eq_fault {nnn : Addr12} {s : State} {f : Fault} : execCall nnn s = .fault f ↔
    s.sp.toNat ≥ 16 ∧ f = .stackOverflow := by
  simp [execCall, andThen_eq_fault, push_eq_fault]

theorem execRet_eq_fault {s : State} {f : Fault} : execRet s = .fault f ↔ s.sp = 0 ∧ f = .stackUnderflow := by
  simp [execRet, andThen_eq_fault, pop_eq_fault]

theorem execSkp_eq_fault {x : Nibble} {s : State} {f : Fault} : execSkp x s = .fault f ↔
    (s.reg x).toNat > 15 ∧ f = .keyIndexOutOfRange := by
  simp [execSkp, andThen_eq_fault, keyPressed_eq_fault, Nat.lt_iff_add_one_le]

theorem execSknp_eq_fault {x : Nibble} {s : State} {f : Fault} : execSknp x s = .fault f ↔
    (s.reg x).toNat > 15 ∧ f = .keyIndexOutOfRange := by
  simp [execSknp, andThen_eq_fault, keyPressed_eq_fault, Nat.lt_iff_add_one_le]

/-- R178's form of the bound: the last of `n` bytes lies above 4095. -/
theorem last_gt_iff {a n : Nat} : n ≠ 0 ∧ a + n > Config.memBytes ↔ n ≥ 1 ∧ a + n - 1 > 4095 := by
  rw [Config.memBytes]
  omega

theorem execDrw_eq_fault {x y n : Nibble} {s : State} {f : Fault} : execDrw x y n s = .fault f ↔
    (n.toNat ≥ 1 ∧ s.i.toNat + n.toNat - 1 > 4095) ∧ f = .memoryOutOfBounds := by
  simp [execDrw, andThen_eq_fault, loadBytes_eq_fault, ← last_gt_iff, and_assoc]

theorem execLoadRegs_eq_fault {x : Nibble} {s : State} {f : Fault} : execLoadRegs x s = .fault f ↔
    (x.toNat ≥ 1 ∧ s.i.toNat + x.toNat - 1 > 4095) ∧ f = .memoryOutOfBounds := by
  simp [execLoadRegs, andThen_eq_fault, loadBytes_eq_fault, ← last_gt_iff, and_assoc]

theorem execStoreRegs_eq_fault {x : Nibble} {s : State} {f : Fault} : execStoreRegs x s = .fault f ↔
    (x.toNat ≥ 1 ∧ s.i.toNat + x.toNat - 1 > 4095) ∧ f = .memoryOutOfBounds := by
  rw [execStoreRegs, storeBytes_eq_fault, ← last_gt_iff, ← List.length_pos_iff, firstRegs_length, Nat.pos_iff_ne_zero,
    and_assoc]
  rfl

theorem execLdB_eq_fault {x : Nibble} {s : State} {f : Fault} : execLdB x s = .fault f ↔
    s.i.toNat + 2 > 4095 ∧ f = .memoryOutOfBounds := by
  have hb : s.i.toNat + 3 > Config.memBytes ↔ s.i.toNat + 2 > 4095 := by rw [Config.memBytes]; omega
  rw [execLdB, storeBytes_eq_fault, and_iff_right (by simp [decimalDigits]), decimalDigits_length, ← hb]
  rfl

theorem execLdVxK_ne_fault (x : Nibble) (s : State) (f : Fault) : execLdVxK x s ≠ .fault f := by
  unfold execLdVxK
  split <;> exact nofun

/-! ## What a tick is fatal on -/

/-- A tick is fatal at its fetch, at its decoding, or in the instruction that it fetched (the spec's D23, log 23). -/
theorem tickBody_eq_fault {run : Instr → State → Res State} {s : State} {f : Fault} (hh : s.halted = false) :
    tickBody run s = .fault f ↔
      (s.pc.toNat > 4094 ∧ f = .fetchOutOfBounds) ∨
      ((s.pc.toNat ≤ 4094 ∧ ∀ i, decodeWord (wordAtPc s) ≠ .ok i) ∧ f = .illegalInstruction) ∨
      ∃ i, Fetches s i ∧ run i { s with pc := s.pc + 2 } = .fault f := by
  by_cases hpc : s.pc.toNat ≤ 4094
  · cases hd : decodeWord (wordAtPc s) with
    | error e => simp [tickBody_of_decode_error run hh hpc hd, Fetches, hpc, hd, eq_comm]
    | ok i => simp [tickBody_of_fetches run hh ⟨hpc, hd⟩, Fetches, hpc, hd]
  · have hgt : s.pc.toNat > 4094 := not_le.mp hpc
    have hfetch : fetch s = .fault .fetchOutOfBounds := fetch_eq_fault.mpr ⟨hgt, rfl⟩
    simp [tickBody, hh, hfetch, Fetches, hpc, hgt, eq_comm]

/-- An instruction is fatal on its own condition alone. -/
theorem fatalCondition_of_exec {i : Instr} {s : State} {f : Fault} (hf : Fetches s i)
    (h : exec i { s with pc := s.pc + 2 } = .fault f) : FatalCondition s f := by
  cases i with
  | call nnn =>
    obtain ⟨hsp, rfl⟩ := execCall_eq_fault.mp h
    exact ⟨nnn, hf, hsp⟩
  | ret =>
    obtain ⟨hsp, rfl⟩ := execRet_eq_fault.mp h
    exact ⟨hf, hsp⟩
  | skp x =>
    obtain ⟨hx, rfl⟩ := execSkp_eq_fault.mp h
    exact ⟨x, .inl hf, hx⟩
  | sknp x =>
    obtain ⟨hx, rfl⟩ := execSknp_eq_fault.mp h
    exact ⟨x, .inr hf, hx⟩
  | drw x y n =>
    obtain ⟨hn, rfl⟩ := execDrw_eq_fault.mp h
    exact .inl ⟨x, y, n, hf, hn⟩
  | ldB x =>
    obtain ⟨hi, rfl⟩ := execLdB_eq_fault.mp h
    exact .inr (.inl ⟨x, hf, hi⟩)
  | storeRegs x =>
    obtain ⟨hi, rfl⟩ := execStoreRegs_eq_fault.mp h
    exact .inr (.inr ⟨x, .inl hf, hi⟩)
  | loadRegs x =>
    obtain ⟨hi, rfl⟩ := execLoadRegs_eq_fault.mp h
    exact .inr (.inr ⟨x, .inr hf, hi⟩)
  | ldVxK x => exact absurd h (execLdVxK_ne_fault x _ f)
  | _ => cases h

theorem step_of_fetches {s : State} {i : Instr} (hh : s.halted = false) (hf : Fetches s i) :
    step s = exec i { s with pc := s.pc + 2 } :=
  tickBody_of_fetches exec hh hf

/-- The condition of a fatal makes the tick end in it: the rows of R173 and R178. -/
theorem step_of_fatalCondition {s : State} {f : Fault} (hh : s.halted = false) (h : FatalCondition s f) :
    step s = .fault f := by
  cases f with
  | fetchOutOfBounds => exact (tickBody_eq_fault hh).mpr (.inl ⟨h, rfl⟩)
  | illegalInstruction => exact (tickBody_eq_fault hh).mpr (.inr (.inl ⟨h, rfl⟩))
  | stackOverflow =>
    obtain ⟨nnn, hf, hsp⟩ := h
    exact (step_of_fetches hh hf).trans (execCall_eq_fault.mpr ⟨hsp, rfl⟩)
  | stackUnderflow =>
    obtain ⟨hf, hsp⟩ := h
    exact (step_of_fetches hh hf).trans (execRet_eq_fault.mpr ⟨hsp, rfl⟩)
  | memoryOutOfBounds =>
    obtain ⟨x, y, n, hf, hn⟩ | ⟨x, hf, hi⟩ | ⟨x, hf | hf, hi⟩ := h
    · exact (step_of_fetches hh hf).trans (execDrw_eq_fault.mpr ⟨hn, rfl⟩)
    · exact (step_of_fetches hh hf).trans (execLdB_eq_fault.mpr ⟨hi, rfl⟩)
    · exact (step_of_fetches hh hf).trans (execStoreRegs_eq_fault.mpr ⟨hi, rfl⟩)
    · exact (step_of_fetches hh hf).trans (execLoadRegs_eq_fault.mpr ⟨hi, rfl⟩)
  | keyIndexOutOfRange =>
    obtain ⟨x, hf | hf, hx⟩ := h
    · exact (step_of_fetches hh hf).trans (execSkp_eq_fault.mpr ⟨hx, rfl⟩)
    · exact (step_of_fetches hh hf).trans (execSknp_eq_fault.mpr ⟨hx, rfl⟩)

end Sys2Proof.Machine

namespace Sys2Proof

open Machine

/-- Settles O14: a tick is fatal at its fetch, at its decoding or in its instruction, each on its own condition. -/
theorem fatalExactlyOnItsCondition : Obligations.FatalExactlyOnItsCondition := by
  intro s f hh
  constructor
  · intro h
    obtain ⟨hpc, rfl⟩ | ⟨hd, rfl⟩ | ⟨i, hf, hi⟩ := (tickBody_eq_fault hh).mp h
    · exact hpc
    · exact hd
    · exact fatalCondition_of_exec hf hi
  · exact step_of_fatalCondition hh

end Sys2Proof

namespace Sys2Proof.Machine

/-! ## The host's operations, what completes and what is refused -/

theorem unlessHalted_of_halted {α : Type} {s : State} (hh : s.halted = true) (o : Res α) :
    unlessHalted s o = .refused .machineHalted :=
  if_pos hh

theorem unlessHalted_eq_next {α : Type} {s : State} {o : Res α} {a : α} :
    unlessHalted s o = .next a ↔ s.halted = false ∧ o = .next a := by
  cases hh : s.halted <;> simp [unlessHalted, hh]

theorem tickWith_of_halted (r : Byte) {s : State} (hh : s.halted = true) : tickWith r s = .refused .machineHalted :=
  if_pos hh

theorem operate_tick_of_fault {s : State} {r : Byte} {f : Fault} (rest : State) (h : tickWith r s = .fault f) :
    operate rest (.tick r) s = .next (haltWith rest f, .fatal f) := by
  rw [operate, h]

theorem operate_tick_of_halted (rest : State) {s : State} (r : Byte) (hh : s.halted = true) :
    operate rest (.tick r) s = .refused .machineHalted := by
  rw [operate, tickWith_of_halted r hh]

theorem operate_tick_eq_next {rest s t : State} {r : Byte} {out : HostOutput}
    (h : operate rest (.tick r) s = .next (t, out)) : tickWith r s = .next t ∨ ∃ f, t = haltWith rest f := by
  cases ht : tickWith r s with
  | next u =>
    cases (operate_tick_of_next rest ht).symm.trans h
    exact .inl rfl
  | fault f =>
    cases (operate_tick_of_fault rest ht).symm.trans h
    exact .inr ⟨f, rfl⟩
  | refused c => rw [operate, ht] at h; cases h

theorem operate_loadProgram_eq_next {rest s t : State} {image : List Byte} {out : HostOutput}
    (h : operate rest (.loadProgram image) s = .next (t, out)) :
    Config.loadAddress + image.length ≤ Config.memBytes ∧
      t = { s with mem := Memory.writeBytes image Config.loadAddress s.mem } := by
  obtain ⟨-, h⟩ := unlessHalted_eq_next.mp h
  obtain ⟨u, hu, ht⟩ := andThen_eq_next.mp h
  cases ht
  unfold loadProgram at hu
  split at hu
  case isTrue hfits => cases hu; exact ⟨of_decide_eq_true hfits, rfl⟩
  case isFalse => cases hu

theorem operate_setKey_eq_next {rest s t : State} {k : Nat} {pressed : Bool} {out : HostOutput}
    (h : operate rest (.setKey k pressed) s = .next (t, out)) : ∃ key, t = { s with key := key } := by
  obtain ⟨-, h⟩ := unlessHalted_eq_next.mp h
  obtain ⟨u, hu, ht⟩ := andThen_eq_next.mp h
  cases ht
  unfold setKey at hu
  split at hu
  · cases hu; exact ⟨_, rfl⟩
  · cases hu

theorem operate_advanceTimers_of_running (rest : State) {s : State} (hh : s.halted = false) :
    operate rest .advanceTimers s =
      .next ({ s with dt := countDown s.dt, st := countDown s.st }, .toneEnd (s.st == 1)) :=
  unlessHalted_of_running hh _

theorem operate_advanceTimers_eq_next {rest s t : State} {out : HostOutput}
    (h : operate rest .advanceTimers s = .next (t, out)) :
    t = { s with dt := countDown s.dt, st := countDown s.st } := by
  obtain ⟨-, h⟩ := unlessHalted_eq_next.mp h
  cases h; rfl

/-! ## The timers (R184) -/

theorem toNat_countDown (t : Byte) : (countDown t).toNat = t.toNat - 1 := by
  unfold countDown
  split_ifs with h
  · subst h; rfl
  · exact BitVec.toNat_sub_of_le (by bv_omega)

/-! ## The causes (R173) -/

theorem toNat_code_le_six (f : Fault) : f.code.toNat ≤ 6 := by cases f <;> decide

theorem code_ne_zero (f : Fault) : f.code ≠ 0 := by cases f <;> decide

/-! ## The invariant under the host's operations -/

theorem inv_startOver (font : Vector Byte 80) (s : State) : Inv (startOver font s) :=
  inv_congr (inv_reset_with_mem (initialState_mem_wf font)) rfl rfl rfl rfl rfl rfl

theorem inv_haltWith {rest : State} (hrest : Inv rest) (f : Fault) : Inv (haltWith rest f) :=
  { hrest with causeCode := toNat_code_le_six f, haltCause := iff_of_true rfl (code_ne_zero f) }

/-- The execute half of the host's TICK draws its own byte, and is `exec` otherwise. -/
theorem inv_execWith {r : Byte} {i : Instr} {s t : State} (hs : FetchedInv s) (h : execWith r i s = .next t) :
    Inv t := by
  by_cases hrnd : ∃ x nn, i = .rnd x nn
  · obtain ⟨x, nn, rfl⟩ := hrnd
    cases h
    exact inv_congr hs.inv rfl rfl rfl rfl rfl rfl
  · have hne : ∀ x nn, i ≠ .rnd x nn := fun x nn hi => hrnd ⟨x, nn, hi⟩
    rw [execWith_of_ne_rnd r hne] at h
    exact inv_exec hs h

end Sys2Proof.Machine

namespace Sys2Proof

open Machine

/-- Settles O54, by the operations: a state made anew, a tick or its halt, a write to memory that the image fits, or writes that
the invariant does not speak of. -/
theorem hostOperationsKeepInv : Obligations.HostOperationsKeepInv := by
  intro rest s t op out hrest hs h
  cases op with
  | create font | reset font =>
    cases h
    exact inv_startOver font s
  | loadProgram image =>
    obtain ⟨hfit, rfl⟩ := operate_loadProgram_eq_next h
    exact inv_with_mem hs (Memory.writeBytes_wf image _ s.mem hs.memory hfit)
  | tick r =>
    obtain ht | ⟨f, rfl⟩ := operate_tick_eq_next h
    · exact inv_tickBody (run := execWith r) (fun _ _ => inv_execWith) hs ht
    · exact inv_haltWith hrest f
  | advanceTimers =>
    obtain rfl := operate_advanceTimers_eq_next h
    exact inv_congr hs rfl rfl rfl rfl rfl rfl
  | setKey k pressed =>
    obtain ⟨_, rfl⟩ := operate_setKey_eq_next h
    exact inv_congr hs rfl rfl rfl rfl rfl rfl
  | readFramebuffer | readState =>
    cases h
    exact hs

/-- Settles O47: both timers count down, and ST steps from 1 to 0 exactly where it is 1. -/
theorem advanceTimersCountsDown : Obligations.AdvanceTimersCountsDown := fun rest s hh =>
  ⟨_, _, operate_advanceTimers_of_running rest hh, toNat_countDown s.dt, toNat_countDown s.st,
    beq_iff_eq.trans BitVec.toNat_inj.symm,
    keepsAllBut_trans (keepsAllBut_with_dt s (countDown s.dt)) (keepsAllBut_with_st _ _)⟩

/-- Settles O52: the halted state is `haltWith`, which the operations refuse; INITIALIZE and RESET are one replacement of the
whole state. -/
theorem fatalHaltsUntilReset : Obligations.FatalHaltsUntilReset := by
  intro rest rest' s r f hf
  have hh : (haltWith rest f).halted = true := rfl
  refine ⟨haltWith rest f, operate_tick_of_fault rest hf, hh, rfl, code_ne_zero f, ?_, ?_, ?_, ?_, ?_, ?_,
    fun r' => operate_tick_of_halted rest' r' hh, unlessHalted_of_halted hh _,
    fun _ _ => unlessHalted_of_halted hh _, fun _ => unlessHalted_of_halted hh _,
    fun font => ⟨startOver font _, rfl, rfl, rfl, rfl, rfl⟩⟩
  all_goals rintro rfl; rfl

/-! ## The state after INITIALIZE and RESET (R200, R201) -/

theorem readByte_startOver_font (font : Vector Byte 80) (s : State) (a : Fin 80) :
    (startOver font s).mem.readByte a = font[a] := by
  refine (Memory.readByte_writeBytes font.toList 0 [] a Memory.wf_nil (by simp [Config.memBytes])).trans ?_
  simp

theorem readByte_startOver_of_ge (font : Vector Byte 80) (s : State) {a : Nat} (ha : 80 ≤ a) :
    (startOver font s).mem.readByte a = 0 := by
  refine (Memory.readByte_writeBytes font.toList 0 [] a Memory.wf_nil (by simp [Config.memBytes])).trans ?_
  rw [dif_neg (by simpa using ha)]
  exact initial_of_ge ha

/-- No program is loaded: the word at pc is zero (R202). -/
theorem wordAtPc_startOver (font : Vector Byte 80) (s : State) : wordAtPc (startOver font s) = 0 :=
  congrArg₂ joinBytes (readByte_startOver_of_ge font s (a := 0x200) (by decide))
    (readByte_startOver_of_ge font s (a := 0x201) (by decide))

/-- Settles O1: the reset state with the FONT written over its first 80 bytes. -/
theorem initializeZeroesAndInstallsFont : Obligations.InitializeZeroesAndInstallsFont := fun font rest s =>
  ⟨startOver font s, operate_create rest s font, rfl, reset_reg, rfl, rfl, fun _ => Vector.getElem_replicate _, rfl, rfl,
    fun _ => Vector.getElem_replicate _, pixelAt_clearedFb, rfl, rfl, readByte_startOver_font font s,
    fun _ ha _ => readByte_startOver_of_ge font s ha⟩

/-- Settles O2: both replace the whole state, and of the state before only the count of draws goes on. -/
theorem resetReplacesWholeState : Obligations.ResetReplacesWholeState := fun font _ _ s s' =>
  ⟨startOver font s, startOver font s', rfl, rfl, keepsAllBut_with_draws (startOver font s) s'.draws⟩

/-- Settles O3: the word at 0x200 is zero, which is NOP. -/
theorem firstTickAfterResetIsNop : Obligations.FirstTickAfterResetIsNop := by
  intro font rest s t h
  cases h
  have hword := wordAtPc_startOver font s
  have hfetch : Fetches (startOver font s) .nop := ⟨show (0x200 : Word).toNat ≤ 4094 by decide, by rw [hword]; rfl⟩
  exact ⟨rfl, hword, hfetch, _, step_of_fetches rfl hfetch, rfl, keepsAllBut_with_pc _ _⟩

/-! ## Which instructions change which state (R26) -/

/-- Settles O55, by the kinds of instruction: those that write registers and pc alone, which no clause speaks of, and those
that write one part more, each of which its clause names. -/
theorem whoChangesWhat : Obligations.WhoChangesWhat := by
  intro i s t h
  cases i with
  -- registers and pc alone
  | nop | jp | jpV0 | ldImm | addImm | ldReg | orReg | andReg | xorReg | addReg | subReg | shr | subnReg | shl | ldVxDt
  | seImm | sneImm | seReg | sneReg =>
    cases h
    simp
  | skp =>
    obtain ⟨c, rfl⟩ := execSkp_eq_next h
    simp
  | sknp =>
    obtain ⟨c, rfl⟩ := execSknp_eq_next h
    simp
  | ldVxK =>
    obtain ⟨k, rfl⟩ | rfl := execLdVxK_eq_next h <;> simp
  | loadRegs =>
    obtain ⟨v, rfl⟩ := execLoadRegs_eq_next h
    simp
  -- I, a timer, the framebuffer or the count of draws
  | ldI | addI | ldF | ldDtVx | ldStVx | cls | rnd =>
    cases h
    simp [drawInto]
  | drw =>
    obtain ⟨fb, hit, rfl⟩ := execDrw_eq_next h
    simp
  -- the stack
  | call =>
    obtain ⟨_, rfl⟩ := execCall_eq_next.mp h
    simp
  | ret =>
    obtain ⟨_, rfl⟩ := execRet_eq_next.mp h
    simp
  -- memory
  | ldB | storeRegs =>
    obtain ⟨-, rfl⟩ := storeBytes_eq_next.mp h
    simp

end Sys2Proof

end
